-- ==== Sys2Proof/Word.lean ====
section
/-! DEFINITION. The word types of the machine (00_scope.md R7, R10). -/

namespace Sys2Proof

/-- Eight bits: an opcode field or a short operand field (R7, R71). -/
abbrev Byte := BitVec 8

/-- Sixteen bits: a memory word, and the width of PC, MAR, MDR, CIR, ACC, IX (R7). -/
abbrev Word := BitVec 16

/-- `wrap16(v) = v mod 65536` for any integer, the mathematical modulo (R10). -/
def wrap16 (v : Int) : Word := BitVec.ofInt 16 v

end Sys2Proof
end

