-- ==== Sys2Proof/Machine/Flags.lean ====
section
/-! DEFINITION. The ALU: its operations, its results and every flag it computes
(40_control_unit.md R112 to R118). -/

namespace Sys2Proof.Machine

/-- The eight ALU operations (00_scope.md R8). -/
inductive AluOp where
  | add | subtract | compare | and | or | xor | shiftLeft | shiftRight
deriving DecidableEq, Repr

/-- What `ALU.compute` returns: the result and the zero, negative, carry and overflow flags. -/
structure AluOut where
  result : Word
  z : Bool
  n : Bool
  c : Bool
  v : Bool
deriving DecidableEq, Repr

/-- Bit 15 of a word, the two's-complement sign (R9, R118). -/
def signBit (w : Word) : Bool := w.getLsbD 15

/-- A result with the flags common to every operation: Z from the result being zero, N its
bit 15 (R118), and the C and V given. -/
def aluOut (result : Word) (c v : Bool) : AluOut :=
  { result := result, z := decide (result = 0#16), n := signBit result, c := c, v := v }

/-- `compute(a, b, add)` (R113): the exact sum, narrowed. -/
def computeAdd (a b : Word) : AluOut :=
  let s := a.toNat + b.toNat
  let result : Word := BitVec.ofNat 16 s
  aluOut result (decide (65536 ≤ s)) (signBit a == signBit b && signBit result != signBit a)

/-- `compute(a, b, subtract)` (R114): the exact difference, narrowed; C is the borrow (D7). -/
def computeSub (a b : Word) : AluOut :=
  let d : Int := (a.toNat : Int) - (b.toNat : Int)
  let result := wrap16 d
  aluOut result (decide (a.toNat < b.toNat)) (signBit a != signBit b && signBit result != signBit a)

/-- `compute(a, n, logical-shift-left)` (R117): the whole 16-bit operand is the count (D9). -/
def computeShiftLeft (a n : Word) : AluOut := aluOut (a <<< n.toNat) false false

/-- `compute(a, n, logical-shift-right)` (R117): zeros enter at bit 15. -/
def computeShiftRight (a n : Word) : AluOut := aluOut (a >>> n.toNat) false false

/-- `ALU.compute` (R113 to R117). Compare computes the difference (R115); for the logic and shift
operations C and V are false (D8). -/
def compute (op : AluOp) (a b : Word) : AluOut :=
  match op with
  | .add => computeAdd a b
  | .subtract => computeSub a b
  | .compare => computeSub a b
  | .and => aluOut (a &&& b) false false
  | .or => aluOut (a ||| b) false false
  | .xor => aluOut (a ^^^ b) false false
  | .shiftLeft => computeShiftLeft a b
  | .shiftRight => computeShiftRight a b

/-- The comparison outcome `eq = (a = b)` of a compare (R115). -/
def comparisonTrue (a b : Word) : Bool := decide (a = b)

end Sys2Proof.Machine
end

