-- ==== Sys2Proof/Machine/Operands.lean ====
section
/-! DEFINITION. The register-transfer (RTN) step kinds (40_control_unit.md R109) and the operand
forms: how each addressing mode builds its operand as RTN steps (R110, R111). -/

namespace Sys2Proof.Machine

/-- The addressing modes of the catalog (00_scope.md R8, 40_control_unit.md R123). -/
inductive AddrMode where
  | immediate | direct | indirect | indexed | register | none
deriving DecidableEq, Repr

/-- The destinations of a simple transfer (R109: dst ∈ ACC, IX, MAR, MDR, PC). -/
inductive TransferDst where
  | acc | ix | mar | mdr | pc
deriving DecidableEq, Repr

/-- The sources of a simple transfer (R109: src ∈ ACC, MDR, OPERAND). -/
inductive TransferSrc where
  | acc | mdr | operand
deriving DecidableEq, Repr

/-- The second operand of an ALU step: OPERAND for immediate forms, MDR for memory forms (R112). -/
inductive AluSrc where
  | operand | mdr
deriving DecidableEq, Repr

/-- The registers of register arithmetic (R109, R119). -/
inductive CountReg where
  | acc | ix
deriving DecidableEq, Repr

/-- The closed variant of RTN step kinds (R109). The destination of an ALU step follows from its
operation: FLAG.E for compare, ACC for the others (R112). -/
inductive RtnStep where
  | transfer (dst : TransferDst) (src : TransferSrc)
  | indexAddr
  | memRead
  | memWrite
  | alu (op : AluOp) (b : AluSrc)
  | regInc (r : CountReg)
  | regDec (r : CountReg)
  | condTransfer (want : Bool)
  | inPop
  | outPush
  | halt
deriving DecidableEq, Repr

/-- The address of the indexed mode: `wrap16(OPERAND + IX)` (R109 IndexAddr, R111, D14). -/
def indexedAddress (operand ix : Word) : Word := operand + ix

/-- Direct: `MAR <- OPERAND; MDR <- M[MAR]`, the value is then in MDR (R111). -/
def directSteps : List RtnStep := [.transfer .mar .operand, .memRead]

/-- Indirect: the pointer word at OPERAND gives the address (R111). -/
def indirectSteps : List RtnStep :=
  [.transfer .mar .operand, .memRead, .transfer .mar .mdr, .memRead]

/-- Indexed: `MAR <- OPERAND + IX; MDR <- M[MAR]` (R111). -/
def indexedSteps : List RtnStep := [.indexAddr, .memRead]

/-- The store form, direct only: `MAR <- OPERAND; MDR <- ACC; M[MAR] <- MDR` (R111). -/
def storeSteps : List RtnStep := [.transfer .mar .operand, .transfer .mdr .acc, .memWrite]

end Sys2Proof.Machine
end

