-- ==== Sys2Proof/Syntax.lean ====
section
/-! DEFINITION. The instructions: one constructor per row of spec/opcode_table.json, which is the
OPCODE_MAP of 30_encoding.md R75. -/

namespace Sys2Proof

/-- One constructor per catalog entry (R75). A name ending in `S` is a short form (one word), in
`L` a long form (two words). `Imm` and `Dir` are the immediate and the direct form of a mnemonic
that has both. The argument is the 16-bit value that DECODE puts into OPERAND (R76): the operand
of a short form, zero-extended; the second word of a long form; for the register-mode and
none-mode entries the ignored byte, which DECODE copies into OPERAND too (R74). -/
inductive Instr where
  -- short forms, opcodes 0x01 to 0x20
  | ldmS (n : Word)
  | lddS (n : Word)
  | ldiS (n : Word)
  | ldxS (n : Word)
  | ldrS (n : Word)
  | movIx (n : Word)
  | stoS (n : Word)
  | addImmS (n : Word)
  | addDirS (n : Word)
  | subImmS (n : Word)
  | subDirS (n : Word)
  | incAcc (n : Word)
  | incIx (n : Word)
  | decAcc (n : Word)
  | decIx (n : Word)
  | jmpS (n : Word)
  | cmpImmS (n : Word)
  | cmpDirS (n : Word)
  | cmiS (n : Word)
  | jpeS (n : Word)
  | jpnS (n : Word)
  | andImmS (n : Word)
  | andDirS (n : Word)
  | orImmS (n : Word)
  | orDirS (n : Word)
  | xorImmS (n : Word)
  | xorDirS (n : Word)
  | lslS (n : Word)
  | lsrS (n : Word)
  | input (n : Word)
  | output (n : Word)
  | stop (n : Word)
  -- long forms, opcode of the short form + 0x80
  | ldmL (n : Word)
  | lddL (n : Word)
  | ldiL (n : Word)
  | ldxL (n : Word)
  | ldrL (n : Word)
  | stoL (n : Word)
  | addImmL (n : Word)
  | addDirL (n : Word)
  | subImmL (n : Word)
  | subDirL (n : Word)
  | jmpL (n : Word)
  | cmpImmL (n : Word)
  | cmpDirL (n : Word)
  | cmiL (n : Word)
  | jpeL (n : Word)
  | jpnL (n : Word)
  | andImmL (n : Word)
  | andDirL (n : Word)
  | orImmL (n : Word)
  | orDirL (n : Word)
  | xorImmL (n : Word)
  | xorDirL (n : Word)
  | lslL (n : Word)
  | lsrL (n : Word)
deriving DecidableEq, Repr

end Sys2Proof
end

