-- ==== Sys2Proof/Machine/Catalog.lean ====
section
/-! DEFINITION. The Instruction Catalog (40_control_unit.md R123): opcode, mnemonic, addressing
mode, length and RTN sequence of every entry, as 30_encoding.md R75 and the rules R150 to R233 give
them. It is pure data, fixed for the life of the machine (R124). -/

namespace Sys2Proof.Machine

/-- The mnemonics of spec/opcode_table.json; a register-mode entry has its register in its
mnemonic, since the opcode names the register (R74). -/
inductive Mnemonic where
  | ldm | ldd | ldi | ldx | ldr | movIx | sto | add | sub | incAcc | incIx | decAcc | decIx
  | jmp | cmp | cmi | jpe | jpn | and | or | xor | lsl | lsr | input | output | stop
deriving DecidableEq, Repr

/-- The `length` of a catalog entry: a short form is one word, a long form two (R71, R72, R123). -/
inductive InstrLength where
  | short | long
deriving DecidableEq, Repr

/-- The number of words of an instruction of this length. -/
def InstrLength.words : InstrLength → Nat
  | .short => 1
  | .long => 2

/-- A catalog entry (R123). -/
structure CatalogEntry where
  opcode : Byte
  mnemonic : Mnemonic
  mode : AddrMode
  length : InstrLength
  rtn : List RtnStep
deriving DecidableEq, Repr

/-! ### The RTN sequences that EXECUTE runs (R150 to R233) -/

/-- LDM (R150): `ACC <- OPERAND`. -/
def rtnLdm : List RtnStep := [.transfer .acc .operand]

/-- LDD (R151): the direct word into ACC. -/
def rtnLdd : List RtnStep := directSteps ++ [.transfer .acc .mdr]

/-- LDI (R152): the indirect word into ACC. -/
def rtnLdi : List RtnStep := indirectSteps ++ [.transfer .acc .mdr]

/-- LDX (R153): the indexed word into ACC. -/
def rtnLdx : List RtnStep := indexedSteps ++ [.transfer .acc .mdr]

/-- LDR (R154): `IX <- OPERAND`. -/
def rtnLdr : List RtnStep := [.transfer .ix .operand]

/-- MOV IX (R155): `IX <- ACC`. -/
def rtnMovIx : List RtnStep := [.transfer .ix .acc]

/-- STO (R156): the store form. -/
def rtnSto : List RtnStep := storeSteps

/-- ADD immediate (R170): one ALU step on OPERAND. -/
def rtnAddImm : List RtnStep := [.alu .add .operand]

/-- ADD direct (R171): the direct word, then the ALU step on MDR. -/
def rtnAddDir : List RtnStep := directSteps ++ [.alu .add .mdr]

/-- SUB immediate (R172): one ALU step on OPERAND. -/
def rtnSubImm : List RtnStep := [.alu .subtract .operand]

/-- SUB direct (R173): the direct word, then the ALU step on MDR. -/
def rtnSubDir : List RtnStep := directSteps ++ [.alu .subtract .mdr]

/-- CMP immediate (R191): one ALU step on OPERAND. -/
def rtnCmpImm : List RtnStep := [.alu .compare .operand]

/-- CMP direct (R192): the direct word, then the ALU step on MDR. -/
def rtnCmpDir : List RtnStep := directSteps ++ [.alu .compare .mdr]

/-- AND immediate (R210): one ALU step on OPERAND. -/
def rtnAndImm : List RtnStep := [.alu .and .operand]

/-- AND direct (R211): the direct word, then the ALU step on MDR. -/
def rtnAndDir : List RtnStep := directSteps ++ [.alu .and .mdr]

/-- OR immediate (R212): one ALU step on OPERAND. -/
def rtnOrImm : List RtnStep := [.alu .or .operand]

/-- OR direct (R213): the direct word, then the ALU step on MDR. -/
def rtnOrDir : List RtnStep := directSteps ++ [.alu .or .mdr]

/-- XOR immediate (R214): one ALU step on OPERAND. -/
def rtnXorImm : List RtnStep := [.alu .xor .operand]

/-- XOR direct (R215): the direct word, then the ALU step on MDR. -/
def rtnXorDir : List RtnStep := directSteps ++ [.alu .xor .mdr]

/-- INC ACC (R174). -/
def rtnIncAcc : List RtnStep := [.regInc .acc]

/-- INC IX (R175). -/
def rtnIncIx : List RtnStep := [.regInc .ix]

/-- DEC ACC (R176). -/
def rtnDecAcc : List RtnStep := [.regDec .acc]

/-- DEC IX (R177). -/
def rtnDecIx : List RtnStep := [.regDec .ix]

/-- JMP (R190): `PC <- OPERAND`. -/
def rtnJmp : List RtnStep := [.transfer .pc .operand]

/-- CMI (R193): the indirect word, then the compare step. -/
def rtnCmi : List RtnStep := indirectSteps ++ [.alu .compare .mdr]

/-- JPE (R194): `if FLAG.E = 1 then PC <- OPERAND`. -/
def rtnJpe : List RtnStep := [.condTransfer true]

/-- JPN (R195): `if FLAG.E = 0 then PC <- OPERAND`. -/
def rtnJpn : List RtnStep := [.condTransfer false]

/-- LSL (R216). -/
def rtnLsl : List RtnStep := [.alu .shiftLeft .operand]

/-- LSR (R217). -/
def rtnLsr : List RtnStep := [.alu .shiftRight .operand]

/-- IN (R230). -/
def rtnIn : List RtnStep := [.inPop]

/-- OUT (R232). -/
def rtnOut : List RtnStep := [.outPush]

/-- END (R233). -/
def rtnEnd : List RtnStep := [.halt]

end Sys2Proof.Machine

namespace Sys2Proof

open Machine

/-- The catalog entry of an instruction: one line per row of R75. The first column is the
parameter OPCODE_MAP at the value R75 gives it (OPEN parameter D1; log 4): the decoder, the
encoder and the assembler take every opcode number from here. -/
def Instr.entry : Instr → CatalogEntry
  | .ldmS _ => ⟨0x01, .ldm, .immediate, .short, rtnLdm⟩
  | .lddS _ => ⟨0x02, .ldd, .direct, .short, rtnLdd⟩
  | .ldiS _ => ⟨0x03, .ldi, .indirect, .short, rtnLdi⟩
  | .ldxS _ => ⟨0x04, .ldx, .indexed, .short, rtnLdx⟩
  | .ldrS _ => ⟨0x05, .ldr, .immediate, .short, rtnLdr⟩
  | .movIx _ => ⟨0x06, .movIx, .register, .short, rtnMovIx⟩
  | .stoS _ => ⟨0x07, .sto, .direct, .short, rtnSto⟩
  | .addImmS _ => ⟨0x08, .add, .immediate, .short, rtnAddImm⟩
  | .addDirS _ => ⟨0x09, .add, .direct, .short, rtnAddDir⟩
  | .subImmS _ => ⟨0x0A, .sub, .immediate, .short, rtnSubImm⟩
  | .subDirS _ => ⟨0x0B, .sub, .direct, .short, rtnSubDir⟩
  | .incAcc _ => ⟨0x0C, .incAcc, .register, .short, rtnIncAcc⟩
  | .incIx _ => ⟨0x0D, .incIx, .register, .short, rtnIncIx⟩
  | .decAcc _ => ⟨0x0E, .decAcc, .register, .short, rtnDecAcc⟩
  | .decIx _ => ⟨0x0F, .decIx, .register, .short, rtnDecIx⟩
  | .jmpS _ => ⟨0x10, .jmp, .direct, .short, rtnJmp⟩
  | .cmpImmS _ => ⟨0x11, .cmp, .immediate, .short, rtnCmpImm⟩
  | .cmpDirS _ => ⟨0x12, .cmp, .direct, .short, rtnCmpDir⟩
  | .cmiS _ => ⟨0x13, .cmi, .indirect, .short, rtnCmi⟩
  | .jpeS _ => ⟨0x14, .jpe, .direct, .short, rtnJpe⟩
  | .jpnS _ => ⟨0x15, .jpn, .direct, .short, rtnJpn⟩
  | .andImmS _ => ⟨0x16, .and, .immediate, .short, rtnAndImm⟩
  | .andDirS _ => ⟨0x17, .and, .direct, .short, rtnAndDir⟩
  | .orImmS _ => ⟨0x18, .or, .immediate, .short, rtnOrImm⟩
  | .orDirS _ => ⟨0x19, .or, .direct, .short, rtnOrDir⟩
  | .xorImmS _ => ⟨0x1A, .xor, .immediate, .short, rtnXorImm⟩
  | .xorDirS _ => ⟨0x1B, .xor, .direct, .short, rtnXorDir⟩
  | .lslS _ => ⟨0x1C, .lsl, .immediate, .short, rtnLsl⟩
  | .lsrS _ => ⟨0x1D, .lsr, .immediate, .short, rtnLsr⟩
  | .input _ => ⟨0x1E, .input, .none, .short, rtnIn⟩
  | .output _ => ⟨0x1F, .output, .none, .short, rtnOut⟩
  | .stop _ => ⟨0x20, .stop, .none, .short, rtnEnd⟩
  | .ldmL _ => ⟨0x81, .ldm, .immediate, .long, rtnLdm⟩
  | .lddL _ => ⟨0x82, .ldd, .direct, .long, rtnLdd⟩
  | .ldiL _ => ⟨0x83, .ldi, .indirect, .long, rtnLdi⟩
  | .ldxL _ => ⟨0x84, .ldx, .indexed, .long, rtnLdx⟩
  | .ldrL _ => ⟨0x85, .ldr, .immediate, .long, rtnLdr⟩
  | .stoL _ => ⟨0x87, .sto, .direct, .long, rtnSto⟩
  | .addImmL _ => ⟨0x88, .add, .immediate, .long, rtnAddImm⟩
  | .addDirL _ => ⟨0x89, .add, .direct, .long, rtnAddDir⟩
  | .subImmL _ => ⟨0x8A, .sub, .immediate, .long, rtnSubImm⟩
  | .subDirL _ => ⟨0x8B, .sub, .direct, .long, rtnSubDir⟩
  | .jmpL _ => ⟨0x90, .jmp, .direct, .long, rtnJmp⟩
  | .cmpImmL _ => ⟨0x91, .cmp, .immediate, .long, rtnCmpImm⟩
  | .cmpDirL _ => ⟨0x92, .cmp, .direct, .long, rtnCmpDir⟩
  | .cmiL _ => ⟨0x93, .cmi, .indirect, .long, rtnCmi⟩
  | .jpeL _ => ⟨0x94, .jpe, .direct, .long, rtnJpe⟩
  | .jpnL _ => ⟨0x95, .jpn, .direct, .long, rtnJpn⟩
  | .andImmL _ => ⟨0x96, .and, .immediate, .long, rtnAndImm⟩
  | .andDirL _ => ⟨0x97, .and, .direct, .long, rtnAndDir⟩
  | .orImmL _ => ⟨0x98, .or, .immediate, .long, rtnOrImm⟩
  | .orDirL _ => ⟨0x99, .or, .direct, .long, rtnOrDir⟩
  | .xorImmL _ => ⟨0x9A, .xor, .immediate, .long, rtnXorImm⟩
  | .xorDirL _ => ⟨0x9B, .xor, .direct, .long, rtnXorDir⟩
  | .lslL _ => ⟨0x9C, .lsl, .immediate, .long, rtnLsl⟩
  | .lsrL _ => ⟨0x9D, .lsr, .immediate, .long, rtnLsr⟩

/-- The value DECODE puts into OPERAND for an instruction (R76). -/
def Instr.operand : Instr → Word
  | .ldmS n
  | .lddS n
  | .ldiS n
  | .ldxS n
  | .ldrS n
  | .movIx n
  | .stoS n
  | .addImmS n
  | .addDirS n
  | .subImmS n
  | .subDirS n
  | .incAcc n
  | .incIx n
  | .decAcc n
  | .decIx n
  | .jmpS n
  | .cmpImmS n
  | .cmpDirS n
  | .cmiS n
  | .jpeS n
  | .jpnS n
  | .andImmS n
  | .andDirS n
  | .orImmS n
  | .orDirS n
  | .xorImmS n
  | .xorDirS n
  | .lslS n
  | .lsrS n
  | .input n
  | .output n
  | .stop n
  | .ldmL n
  | .lddL n
  | .ldiL n
  | .ldxL n
  | .ldrL n
  | .stoL n
  | .addImmL n
  | .addDirL n
  | .subImmL n
  | .subDirL n
  | .jmpL n
  | .cmpImmL n
  | .cmpDirL n
  | .cmiL n
  | .jpeL n
  | .jpnL n
  | .andImmL n
  | .andDirL n
  | .orImmL n
  | .orDirL n
  | .xorImmL n
  | .xorDirL n
  | .lslL n
  | .lsrL n => n

/-- The short forms of R75, in the table's order. -/
def shortForms : List (Word → Instr) :=
  [.ldmS, .lddS, .ldiS, .ldxS, .ldrS, .movIx, .stoS, .addImmS,
   .addDirS, .subImmS, .subDirS, .incAcc, .incIx, .decAcc, .decIx, .jmpS,
   .cmpImmS, .cmpDirS, .cmiS, .jpeS, .jpnS, .andImmS, .andDirS, .orImmS,
   .orDirS, .xorImmS, .xorDirS, .lslS, .lsrS, .input, .output, .stop]

/-- The long forms of R75, in the table's order. -/
def longForms : List (Word → Instr) :=
  [.ldmL, .lddL, .ldiL, .ldxL, .ldrL, .stoL, .addImmL, .addDirL,
   .subImmL, .subDirL, .jmpL, .cmpImmL, .cmpDirL, .cmiL, .jpeL, .jpnL,
   .andImmL, .andDirL, .orImmL, .orDirL, .xorImmL, .xorDirL, .lslL, .lsrL]

/-- Every form of the catalog, as a function of its operand (R75: 56 entries). -/
def allForms : List (Word → Instr) := shortForms ++ longForms

/-- The entry of a form; it does not depend on the operand (R124). -/
def formEntry (f : Word → Instr) : CatalogEntry := (f 0#16).entry

/-- The catalog lookup of DECODE by opcode alone (R106, R124), as the form it finds. -/
def lookupForm (op : Byte) : Option (Word → Instr) :=
  allForms.find? (fun f => (formEntry f).opcode == op)

/-- `OPCODE_MAP[op]`, the catalog entry of an opcode, if it has one (R106). -/
def lookupEntry (op : Byte) : Option CatalogEntry :=
  (lookupForm op).map formEntry

/-- The Instruction Catalog as a list of its 56 entries (R75, R123). -/
def catalog : List CatalogEntry := allForms.map formEntry

end Sys2Proof
end

