-- ==== Sys2Proof/WellFormed.lean ====
section
/-! DEFINITION. Well-formed instructions: the operand fits the operand field of the form
(30_encoding.md R71, R72, R77). -/

namespace Sys2Proof

/-- The operand of a short form fits its 8-bit field (R71, R77); the 16-bit operand word of a long
form holds any operand (R72). -/
def Instr.wf (i : Instr) : Bool :=
  match i.entry.length with
  | .short => decide (i.operand.toNat < 256)
  | .long => true

/-- An instruction in the form the assembler chooses for it (50_assembler.md R259): the long form
exactly when the operand does not fit 8 bits, and a zero in an ignored operand field (R74). -/
def Instr.canonical (i : Instr) : Bool :=
  match i.entry.length, i.entry.mode with
  | .short, .register => decide (i.operand = 0#16)
  | .short, .none => decide (i.operand = 0#16)
  | .short, _ => decide (i.operand.toNat < 256)
  | .long, _ => decide (256 ≤ i.operand.toNat)

end Sys2Proof
end

