-- ==== Sys2Proof/Decode.lean ====
section
/-! DEFINITION. The decoder and the encoder (30_encoding.md R70 to R80). Both take the opcode
numbers from the catalog (R75). -/

namespace Sys2Proof

/-- The opcode field, bits 15..8 of the first word (R70, R71). -/
def opcodeField (w : Word) : Byte := w.extractLsb' 8 8

/-- The short operand field, bits 7..0 of the first word (R70, R71). -/
def shortField (w : Word) : Byte := w.extractLsb' 0 8

/-- The operand of a short form: its field zero-extended to 16 bits (R76, R106). -/
def shortOperand (w : Word) : Word := (shortField w).setWidth 16

/-- The first word of an instruction, `{opcode, low}` (R71, R72). -/
def firstWord (opcode low : Byte) : Word := opcode ++ low

/-- Why a sequence of words is not an instruction. -/
inductive DecodeError where
  /-- There is no word at all. -/
  | noWord
  /-- The opcode has no catalog entry (R79, R300). -/
  | unknownOpcode (opcode : Byte) (word : Word)
  /-- A long form without its operand word (R72). -/
  | noOperandWord (opcode : Byte)
deriving DecidableEq, Repr

/-- Decode the instruction at the front of a list of words, in address order: the instruction
and the words after it. Total; the length is known from the first word alone (R78), and the low
byte of a long form's first word is ignored (R80). -/
def decode : List Word → Except DecodeError (Instr × List Word)
  | [] => .error .noWord
  | w :: rest =>
    match lookupForm (opcodeField w) with
    | none => .error (.unknownOpcode (opcodeField w) w)
    | some f =>
      match (formEntry f).length with
      | .short => .ok (f (shortOperand w), rest)
      | .long =>
        match rest with
        | [] => .error (.noOperandWord (opcodeField w))
        | operand :: rest' => .ok (f operand, rest')

/-- The words of an instruction, in address order (R71, R72); the reserved low byte of a long
form's first word is 0, as the assembler emits it (R72). -/
def encode (i : Instr) : List Word :=
  match i.entry.length with
  | .short => [firstWord i.entry.opcode (shortField i.operand)]
  | .long => [firstWord i.entry.opcode 0#8, i.operand]

/-- The two words of an instruction given as one number, `nbits` bits of it: bit 0 is the least
significant bit of the first word, the second word is bits 31..16, and every bit at or above
`nbits` is 0. Two words are the longest instruction (R70). -/
def tableWords (nbits w : Nat) : List Word :=
  let v := w % 2 ^ nbits
  [BitVec.ofNat 16 v, BitVec.ofNat 16 (v / 65536)]

/-- The instruction the decoder reads from an opcode-table word. -/
def decodeTableWord (nbits w : Nat) : Option Instr :=
  match decode (tableWords nbits w) with
  | .ok (i, _) => some i
  | .error _ => none

end Sys2Proof
end

