-- ==== Sys2Proof/Config.lean ====
section
/-! DEFINITION. The parameters of 00_scope.md R7 that are constants of the model, and the one
value that the spec leaves free. MEM_SIZE is a field of State (R330: fixed at creation), with
the default below; OPCODE_MAP is the opcode column of `Instr.entry` (Machine/Catalog.lean). -/

namespace Sys2Proof.Config

/-- FLAG_WIDTH: 8 bits, of which bit 0 is used (R7, R28; OPEN parameter D10; log 9). -/
abbrev flagWidth : Nat := 8

/-- The default MEM_SIZE: 65536 words (R7, R50; OPEN parameter D13; log 2). -/
def defaultMemSize : Nat := 65536

/-- START_ADDRESS: the start of a `load` that gives none (R7, R331). -/
def startAddress : Word := 0

/-- ASM_ORIGIN: the address of the first assembled instruction word (R7, D33). -/
def asmOrigin : Nat := 0

/-- The `detail` that PASS1 records with a parse error (R260: `err <- (e, n, detail)`), as a
function of the line's number and text. The spec states no value for it: a FREE VALUE, with no
body, so that nothing can be proved of it (DESIGN CHOICE, log 7). -/
opaque parseErrorDetail : Nat → List Char → List Char

end Sys2Proof.Config
end

