-- ==== Sys2Proof/Machine/AsmState.lean ====
section
/-! DEFINITION. The state of the two-pass assembler (50_assembler.md R250, R265). -/

namespace Sys2Proof.Machine

/-- The phases of the assembler (R250). -/
inductive AsmPhase where
  | trim | pass1 | pass2 | done
deriving DecidableEq, Repr

/-- The assembler error kinds (R265). -/
inductive AsmErrorKind where
  | duplicateLabel | malformedLine | unknownOpcode | invalidLiteral
  | operandOutOfRange | undefinedLabel | addressOutOfBounds
deriving DecidableEq, Repr

/-- The `detail` of an error record: a text (a label, an operand token) or an address (R260, R262). -/
inductive AsmDetail where
  | text (t : List Char)
  | address (a : Nat)
deriving DecidableEq, Repr

/-- The error record `(kind, line_no, detail)` with the original line number (R265). -/
structure AsmError where
  kind : AsmErrorKind
  line : Nat
  detail : AsmDetail
deriving DecidableEq, Repr

/-- What a label stands for: during PASS1 an instruction address or a data index, from the end of
PASS1 an address (R250, R261). -/
inductive SymVal where
  | instr (address : Nat)
  | data (index : Nat)
  | addr (address : Nat)
deriving DecidableEq, Repr

/-- What PASS1 notes for a trimmed line (R250, R260). -/
inductive LineInfo where
  | instr (address : Nat) (length : Nat) (entry : CatalogEntry)
  | data (place : Nat) (value : Word)
deriving DecidableEq, Repr

/-- The assembler's state (R250). A text is its list of characters. -/
structure AsmState where
  raw : List (List Char)
  phase : AsmPhase
  cursor : Nat
  trimmed : List (Nat × List Char)
  symbols : List (List Char × SymVal)
  instAddr : Nat
  dataIndex : Nat
  info : List LineInfo
  err : Option AsmError
deriving DecidableEq, Repr

/-- The initial state of an assembler constructed from its source lines (R250, R334). -/
def AsmState.new (lines : List (List Char)) : AsmState where
  raw := lines
  phase := .trim
  cursor := 0
  trimmed := []
  symbols := []
  instAddr := Config.asmOrigin
  dataIndex := 0
  info := []
  err := none

end Sys2Proof.Machine
end

