-- ==== Sys2Proof/Machine/State.lean ====
section
/-! DEFINITION. The state of the machine (10_state.md R20), its value at creation (R38), and the
reasons a step of the model can stop. -/

namespace Sys2Proof.Machine

/-- Why a step faults. -/
inductive Fault where
  /-- Raised by `State.rtnStep` and `step` when the control unit stands in a step that the spec
  does not have: FETCH past step 3, DECODE past step 4, a DECODE or EXECUTE step with no (known)
  current instruction, EXECUTE past the end of the sequence. No step, load or reset of the spec
  leads there. Safe: the machine stops where the spec gives no behaviour (log 5). -/
  | noSuchStep
deriving DecidableEq, Repr

/-- Why a step is refused. -/
inductive Refusal where
  /-- An instruction with no meaning yet. Safe. No arm of `exec` answers it now: every
  instruction has its meaning. -/
  | notModelled (mnemonic : String)
deriving DecidableEq, Repr

/-- The phases of the control unit (R32). -/
inductive Phase where
  | fetch | decode | execute | halt
deriving DecidableEq, Repr

/-- The errors the CPU raises, as recorded in ERR (R34, R300 to R302). -/
inductive CpuError where
  | unknownOpcode (opcode : Byte) (word : Word)
  | addressOutOfBounds (addr : Word)
deriving DecidableEq, Repr

/-- The ALU latch: last operands, operation, result and flags (R30). -/
structure AluLatch where
  a : Word
  b : Word
  op : Option AluOp
  result : Word
  z : Bool
  n : Bool
  c : Bool
  v : Bool
deriving DecidableEq, Repr

/-- One word of memory at an address. Memory has words and no bytes (R52; log 14). -/
abbrev WordCell := Nat × Word

/-- Memory: the words that are not 0, by strictly rising address (`Memory.wf`, Machine/Ops.lean).
An unlisted address reads as 0: memory is zero-initialized (R50). -/
abbrev Memory := List WordCell

/-- The state of the machine: the record of R20, the parameter MEM_SIZE it was created with
(R7, R330), and the assembler the host has constructed, if any (R250, R334). -/
structure State where
  pc : Word
  mar : Word
  mdr : Word
  cir : Word
  acc : Word
  ix : Word
  flag : BitVec Config.flagWidth
  alu : AluLatch
  phase : Phase
  k : Nat
  inst : Option CatalogEntry
  operand : Word
  err : Option CpuError
  memSize : Nat
  mem : Memory
  inq : List Int
  outq : List Word
  asm : Option AsmState
deriving DecidableEq, Repr

/-- The ALU latch at creation (R38). -/
def AluLatch.cleared : AluLatch where
  a := 0
  b := 0
  op := none
  result := 0
  z := false
  n := false
  c := false
  v := false

/-- CPU creation with a given MEM_SIZE: the "at CPU creation" column of R38 (R330). -/
def State.create (memSize : Nat) : State where
  pc := 0
  mar := 0
  mdr := 0
  cir := 0
  acc := 0
  ix := 0
  flag := 0
  alu := .cleared
  phase := .fetch
  k := 0
  inst := none
  operand := 0
  err := none
  memSize := memSize
  mem := []
  inq := []
  outq := []
  asm := none

/-- The machine right after creation with the default MEM_SIZE (R7, R38). -/
def State.reset : State := State.create Config.defaultMemSize

end Sys2Proof.Machine
end

