-- ==== Sys2Proof/Machine/Ops.lean ====
section
/-! DEFINITION. The operations over memory and registers, raising an error, and one RTN step of each
kind (00_scope.md R11 to R13, 40_control_unit.md R108 to R120, 60_exceptions.md R300 to R303). -/

namespace Sys2Proof.Machine

/-! ### Memory -/

/-- The word at an address; an unlisted address reads as 0 (R50). -/
def Memory.read : Memory → Nat → Word
  | [], _ => 0#16
  | (b, v) :: m, a => if a = b then v else Memory.read m a

/-- Store a word, keeping the canonical form: storing 0 removes the entry. -/
def Memory.write : Memory → Nat → Word → Memory
  | [], a, v => if v = 0#16 then [] else [(a, v)]
  | (b, x) :: m, a, v =>
    if a < b then (if v = 0#16 then (b, x) :: m else (a, v) :: (b, x) :: m)
    else if a = b then (if v = 0#16 then m else (a, v) :: m)
    else (b, x) :: Memory.write m a v

/-- Store words at consecutive addresses (R262, R331). -/
def Memory.writeList : Memory → Nat → List Word → Memory
  | m, _, [] => m
  | m, a, v :: vs => Memory.writeList (m.write a v) (a + 1) vs

/-- Every listed address is above `lo`'s bound, addresses strictly rise, and no listed word is 0. -/
def Memory.wfFrom : Nat → Memory → Bool
  | _, [] => true
  | lo, (a, v) :: m => decide (lo ≤ a) && decide (v ≠ 0#16) && Memory.wfFrom (a + 1) m

/-- The canonical form: addresses strictly rising, no entry equal to what an unlisted address
reads as. -/
def Memory.wf (m : Memory) : Bool := Memory.wfFrom 0 m

/-- Every listed address is below MEM_SIZE (R50). -/
def Memory.within (memSize : Nat) (m : Memory) : Bool := m.all (fun c => decide (c.1 < memSize))

/-- The word at an address of the machine's memory. -/
def State.word (s : State) (a : Word) : Word := s.mem.read a.toNat

/-- The bounds check of `MemRead` and `MemWrite`: `a < MEM_SIZE` (R12, R51). -/
def State.inBounds (s : State) (a : Word) : Bool := decide (a.toNat < s.memSize)

/-! ### Registers -/

/-- Read the source of a simple transfer (R109). -/
def State.src (s : State) : TransferSrc → Word
  | .acc => s.acc
  | .mdr => s.mdr
  | .operand => s.operand

/-- Write the destination of a simple transfer (R109). -/
def State.setDst (s : State) (d : TransferDst) (v : Word) : State :=
  match d with
  | .acc => { s with acc := v }
  | .ix => { s with ix := v }
  | .mar => { s with mar := v }
  | .mdr => { s with mdr := v }
  | .pc => { s with pc := v }

/-- Read a register of register arithmetic (R119). -/
def State.countReg (s : State) : CountReg → Word
  | .acc => s.acc
  | .ix => s.ix

/-- Write a register of register arithmetic (R119). -/
def State.setCountReg (s : State) (r : CountReg) (v : Word) : State :=
  match r with
  | .acc => { s with acc := v }
  | .ix => { s with ix := v }

/-- FLAG.E, bit 0 of FLAG (R11, R28). -/
def State.flagE (s : State) : Bool := s.flag.getLsbD 0

/-- `FLAG.E <- e`: bit 0 is written, the reserved bits 7..1 are not (R28, D11). -/
def State.setFlagE (s : State) (e : Bool) : State :=
  { s with flag := (s.flag &&& 0xFE) ||| (if e then 1 else 0) }

/-- The reserved bits 7..1 of FLAG are 0 (R28). -/
def State.flagReservedZero (s : State) : Bool := decide (s.flag &&& 0xFE = 0)

/-! ### The ALU step -/

/-- Read the second operand of an ALU step (R112). -/
def State.aluSrc (s : State) : AluSrc → Word
  | .operand => s.operand
  | .mdr => s.mdr

/-- What the ALU latch holds after `compute(a, b, op)` (R30, R112). -/
def latchOf (op : AluOp) (a b : Word) : AluLatch :=
  let o := compute op a b
  { a := a, b := b, op := some op, result := o.result, z := o.z, n := o.n, c := o.c, v := o.v }

/-- The ALU step on ACC and `b` (R112): the whole latch is written; compare writes FLAG.E and not
ACC, every other operation writes ACC and not FLAG. -/
def State.aluStep (s : State) (op : AluOp) (b : Word) : State :=
  let t := { s with alu := latchOf op s.acc b }
  match op with
  | .compare => t.setFlagE (comparisonTrue s.acc b)
  | _ => { t with acc := (compute op s.acc b).result }

/-! ### Raising an error -/

/-- Raising an error, the one exception entry of the machine: ERR records it, the phase becomes
HALT and k 0, and nothing else changes (R13, R303). There is no return from it (R305); only
`load` leaves HALT (R331, `State.load`). -/
def State.raise (s : State) (e : CpuError) : State :=
  { s with err := some e, phase := .halt, k := 0 }

/-! ### One RTN step -/

/-- What an RTN step does: it completes, it is a blocked IN, or it raises an error (R108). -/
inductive RtnResult where
  | done (s : State)
  | blocked
  | raises (e : CpuError)
deriving DecidableEq, Repr

/-- `MDR <- MemRead(MAR, 1)` (R12, R109). -/
def State.readMar (s : State) : RtnResult :=
  if s.inBounds s.mar then .done { s with mdr := s.word s.mar }
  else .raises (.addressOutOfBounds s.mar)

/-- `MemWrite(MAR, 1, MDR)` (R12, R109). -/
def State.writeMar (s : State) : RtnResult :=
  if s.inBounds s.mar then .done { s with mem := s.mem.write s.mar.toNat s.mdr }
  else .raises (.addressOutOfBounds s.mar)

/-- `ACC <- wrap16(pop(INQ))`, blocked while INQ is empty (R230). -/
def State.popInput (s : State) : RtnResult :=
  match s.inq with
  | [] => .blocked
  | v :: q => .done { s with acc := wrap16 v, inq := q }

/-- The effect of each RTN step kind (R109). -/
def RtnStep.run (r : RtnStep) (s : State) : RtnResult :=
  match r with
  | .transfer dst src => .done (s.setDst dst (s.src src))
  | .indexAddr => .done { s with mar := indexedAddress s.operand s.ix }
  | .memRead => s.readMar
  | .memWrite => s.writeMar
  | .alu op b => .done (s.aluStep op (s.aluSrc b))
  | .regInc r => .done (s.setCountReg r (s.countReg r + 1))
  | .regDec r => .done (s.setCountReg r (s.countReg r - 1))
  | .condTransfer want => .done (if s.flagE = want then { s with pc := s.operand } else s)
  | .inPop => s.popInput
  | .outPush => .done { s with outq := s.outq ++ [s.acc] }
  | .halt => .done s

/-! ### The sequencing of EXECUTE -/

/-- After the last RTN step: HALT for END, FETCH otherwise, k 0 (R108). -/
def State.leaveExecute (s : State) (e : CatalogEntry) : State :=
  { s with phase := if e.mnemonic = .stop then .halt else .fetch, k := 0 }

/-- After an RTN step that is not the last: the next step index (R108). -/
def State.nextStep (s : State) : State := { s with k := s.k + 1 }

/-- One EXECUTE step of an entry (R108): run the RTN step, then move the phase or the step index.
A blocked IN changes nothing; an error moves to HALT. -/
def State.executeStep (s : State) (e : CatalogEntry) (r : RtnStep) (last : Bool) : State :=
  match r.run s with
  | .done t => if last then t.leaveExecute e else t.nextStep
  | .blocked => s
  | .raises x => s.raise x

/-- Run RTN steps of an entry one after another up to the end of the list, a blocked IN or an error
(R108, R121). -/
def State.runSteps (s : State) (e : CatalogEntry) : List RtnStep → State
  | [] => s
  | r :: rs =>
    match r.run s with
    | .done t => if rs.isEmpty then t.leaveExecute e else t.nextStep.runSteps e rs
    | .blocked => s
    | .raises x => s.raise x

/-- The end of DECODE for an instruction: INST and OPERAND hold it, and EXECUTE is at its first
step (R106, R107). -/
def State.latch (s : State) (i : Instr) : State :=
  { s with inst := some i.entry, operand := i.operand, phase := .execute, k := 0 }

/-- EXECUTE of a whole instruction: the machine at the end of its DECODE runs its RTN sequence to
the end, a blocked IN or an error (R108). -/
def State.execute (s : State) (i : Instr) : State :=
  (s.latch i).runSteps i.entry i.entry.rtn

/-- A state as the answer of a meaning. -/
def answer (s : State) : Host.Outcome State Fault Refusal := .next s

end Sys2Proof.Machine
end

