-- ==== Sys2Proof/Machine/Control.lean ====
section
/-! DEFINITION. The control unit's step function (40_control_unit.md R100 to R108): `State.rtnStep` is the
spec's `step()`, one RTN transfer a call. -/

namespace Sys2Proof.Machine

/-- `step()` returns whether the machine is now halted (R100). -/
def State.halted (s : State) : Bool := decide (s.phase = .halt)

/-- An RTN step of FETCH or DECODE that reads memory, then goes on as given. -/
def State.readThen (s : State) (k : Nat) : State :=
  match s.readMar with
  | .done t => { t with k := k }
  | .blocked => s
  | .raises x => s.raise x

/-- FETCH step k (R102 to R105). -/
def State.fetchStep (s : State) : Host.Outcome State Fault Refusal :=
  match s.k with
  | 0 => .next { s with mar := s.pc, k := 1 }
  | 1 => .next (s.readThen 2)
  | 2 => .next { s with pc := s.pc + 1, k := 3 }
  | 3 => .next { s with cir := s.mdr, phase := .decode, k := 0 }
  | _ => .fault .noSuchStep

/-- DECODE step 0, the lookup (R106). -/
def State.lookupStep (s : State) : State :=
  match lookupEntry (opcodeField s.cir) with
  | none => s.raise (.unknownOpcode (opcodeField s.cir) s.cir)
  | some e =>
    match e.length with
    | .short => { s with inst := some e, operand := shortOperand s.cir, phase := .execute, k := 0 }
    | .long => { s with inst := some e, k := 1 }

/-- DECODE step k: the lookup, then for a long form the read of the operand word (R106, R107). -/
def State.decodeStep (s : State) : Host.Outcome State Fault Refusal :=
  match s.k with
  | 0 => .next s.lookupStep
  | 1 => .next { s with mar := s.pc, k := 2 }
  | 2 => .next (s.readThen 3)
  | 3 => .next { s with pc := s.pc + 1, k := 4 }
  | 4 => .next { s with operand := s.mdr, phase := .execute, k := 0 }
  | _ => .fault .noSuchStep

/-- EXECUTE step k of the current instruction (R108). -/
def State.executeAt (s : State) : Host.Outcome State Fault Refusal :=
  match s.inst with
  | none => .fault .noSuchStep
  | some e =>
    match e.rtn[s.k]? with
    | none => .fault .noSuchStep
    | some r => .next (s.executeStep e r (s.k + 1 == e.rtn.length))

/-- The spec's `step()`: exactly one FETCH, DECODE or EXECUTE step, or the HALT no-op (R100, R101). -/
def State.rtnStep (s : State) : Host.Outcome State Fault Refusal :=
  match s.phase with
  | .halt => .next s
  | .fetch => s.fetchStep
  | .decode => s.decodeStep
  | .execute => s.executeAt

/-- `n` calls of the spec's `step()`. -/
def State.rtnRun (s : State) : Nat → Host.Outcome State Fault Refusal
  | 0 => .next s
  | n + 1 =>
    match s.rtnStep with
    | .next t => t.rtnRun n
    | .fault f => .fault f
    | .refused r => .refused r

/-- The steps of FETCH and DECODE up to the start of EXECUTE or an error, at most `n` of them. -/
def State.frontEnd (s : State) : Nat → Host.Outcome State Fault Refusal
  | 0 => .next s
  | n + 1 =>
    if s.phase = .fetch ∨ s.phase = .decode then
      match s.rtnStep with
      | .next t => t.frontEnd n
      | .fault f => .fault f
      | .refused r => .refused r
    else .next s

/-- FETCH has four steps, DECODE at most five (R102 to R107). -/
def frontSteps : Nat := 9

/-- The instruction that DECODE has put into INST and OPERAND. -/
def State.decoded (s : State) : Option Instr :=
  match s.inst with
  | none => none
  | some e => (lookupForm e.opcode).map (fun f => f s.operand)

/-- The rest of the current instruction's EXECUTE, from step k (R108): what remains of an
instruction that a blocked IN or the RTN-level host left unfinished. -/
def State.resume (s : State) : Host.Outcome State Fault Refusal :=
  match s.inst with
  | none => .fault .noSuchStep
  | some e =>
    if s.k < e.rtn.length then .next (s.runSteps e (e.rtn.drop s.k))
    else .fault .noSuchStep

/-- The number of `step()` calls of an instruction from its FETCH step 0 to the call that leaves
it, with no error and no blocked IN (R122). -/
def stepCount (i : Instr) : Nat :=
  4 + 1 + (if i.entry.length = .long then 4 else 0) + i.entry.rtn.length

/-- The words of memory at PC and after it, the most an instruction has (R70). -/
def State.fetchWords (s : State) : List Word := [s.word s.pc, s.word (s.pc + 1)]

/-- Memory with words stored at PC and the addresses after it, as far as they exist; PC wraps as
the fetch does (R104). -/
def State.placeAtPc (s : State) (ws : List Word) : Memory :=
  go s.mem s.pc ws
where
  /-- Store the words one by one. -/
  go (m : Memory) (a : Word) : List Word → Memory
    | [] => m
    | w :: ws => go (if a.toNat < s.memSize then m.write a.toNat w else m) (a + 1) ws

/-- The words an instruction of this length occupies at PC are all in memory (R51, R53). -/
def State.fetchInBounds (s : State) (l : InstrLength) : Bool :=
  match l with
  | .short => s.inBounds s.pc
  | .long => s.inBounds s.pc && s.inBounds (s.pc + 1)

/-- What FETCH and DECODE of an instruction of this length leave in PC, MAR, MDR and CIR
(R102 to R107). -/
def State.fetched (s : State) (l : InstrLength) : State :=
  match l with
  | .short =>
    { s with pc := s.pc + 1, mar := s.pc, mdr := s.word s.pc, cir := s.word s.pc }
  | .long =>
    { s with pc := s.pc + 2, mar := s.pc + 1, mdr := s.word (s.pc + 1), cir := s.word s.pc }

end Sys2Proof.Machine
end

