-- ==== Sys2Proof/Machine/Arithmetic.lean ====
section
/-! DEFINITION. The meanings of the arithmetic instructions (42_arithmetic.md R170 to R178). Each runs the RTN
sequence that the catalog gives its entry (Machine/Catalog.lean) through `State.execute`: the
machine stands at the end of the instruction's DECODE, PC past its words. -/

namespace Sys2Proof.Machine

/-- ADD #n: ACC <- ACC + n, the ALU latch written (R170); opcode 0x08, short form, steps `rtnAddImm`. -/
def execAddImmS (n : Word) (s : State) : Host.Outcome State Fault Refusal := answer (s.execute (.addImmS n))

/-- ADD a: ACC <- ACC + M[a], the ALU latch written (R171); opcode 0x09, short form, steps `rtnAddDir`. -/
def execAddDirS (n : Word) (s : State) : Host.Outcome State Fault Refusal := answer (s.execute (.addDirS n))

/-- SUB #n: ACC <- ACC - n, the ALU latch written (R172); opcode 0x0A, short form, steps `rtnSubImm`. -/
def execSubImmS (n : Word) (s : State) : Host.Outcome State Fault Refusal := answer (s.execute (.subImmS n))

/-- SUB a: ACC <- ACC - M[a], the ALU latch written (R173); opcode 0x0B, short form, steps `rtnSubDir`. -/
def execSubDirS (n : Word) (s : State) : Host.Outcome State Fault Refusal := answer (s.execute (.subDirS n))

/-- INC ACC: outside the ALU, no flag (R174); opcode 0x0C, short form, steps `rtnIncAcc`. -/
def execIncAcc (n : Word) (s : State) : Host.Outcome State Fault Refusal := answer (s.execute (.incAcc n))

/-- INC IX: outside the ALU, no flag (R175); opcode 0x0D, short form, steps `rtnIncIx`. -/
def execIncIx (n : Word) (s : State) : Host.Outcome State Fault Refusal := answer (s.execute (.incIx n))

/-- DEC ACC: outside the ALU, no flag (R176); opcode 0x0E, short form, steps `rtnDecAcc`. -/
def execDecAcc (n : Word) (s : State) : Host.Outcome State Fault Refusal := answer (s.execute (.decAcc n))

/-- DEC IX: outside the ALU, no flag (R177); opcode 0x0F, short form, steps `rtnDecIx`. -/
def execDecIx (n : Word) (s : State) : Host.Outcome State Fault Refusal := answer (s.execute (.decIx n))

/-- ADD #n: ACC <- ACC + n, the ALU latch written (R170); opcode 0x88, long form, steps `rtnAddImm`. -/
def execAddImmL (n : Word) (s : State) : Host.Outcome State Fault Refusal := answer (s.execute (.addImmL n))

/-- ADD a: ACC <- ACC + M[a], the ALU latch written (R171); opcode 0x89, long form, steps `rtnAddDir`. -/
def execAddDirL (n : Word) (s : State) : Host.Outcome State Fault Refusal := answer (s.execute (.addDirL n))

/-- SUB #n: ACC <- ACC - n, the ALU latch written (R172); opcode 0x8A, long form, steps `rtnSubImm`. -/
def execSubImmL (n : Word) (s : State) : Host.Outcome State Fault Refusal := answer (s.execute (.subImmL n))

/-- SUB a: ACC <- ACC - M[a], the ALU latch written (R173); opcode 0x8B, long form, steps `rtnSubDir`. -/
def execSubDirL (n : Word) (s : State) : Host.Outcome State Fault Refusal := answer (s.execute (.subDirL n))

end Sys2Proof.Machine
end

