-- ==== Sys2Proof/Machine/CompareBranch.lean ====
section
/-! DEFINITION. The meanings of the compare and branch instructions (43_compare_branch.md R190 to R196). Each runs the RTN
sequence that the catalog gives its entry (Machine/Catalog.lean) through `State.execute`: the
machine stands at the end of the instruction's DECODE, PC past its words. -/

namespace Sys2Proof.Machine

/-- JMP a: PC <- a (R190); opcode 0x10, short form, steps `rtnJmp`. -/
def execJmpS (n : Word) (s : State) : Host.Outcome State Fault Refusal := answer (s.execute (.jmpS n))

/-- CMP #n: FLAG.E <- (ACC = n), the ALU latch written (R191); opcode 0x11, short form, steps `rtnCmpImm`. -/
def execCmpImmS (n : Word) (s : State) : Host.Outcome State Fault Refusal := answer (s.execute (.cmpImmS n))

/-- CMP a: FLAG.E <- (ACC = M[a]), the ALU latch written (R192); opcode 0x12, short form, steps `rtnCmpDir`. -/
def execCmpDirS (n : Word) (s : State) : Host.Outcome State Fault Refusal := answer (s.execute (.cmpDirS n))

/-- CMI a: FLAG.E <- (ACC = M[M[a]]), the ALU latch written (R193); opcode 0x13, short form, steps `rtnCmi`. -/
def execCmiS (n : Word) (s : State) : Host.Outcome State Fault Refusal := answer (s.execute (.cmiS n))

/-- JPE a: PC <- a if FLAG.E is 1 (R194); opcode 0x14, short form, steps `rtnJpe`. -/
def execJpeS (n : Word) (s : State) : Host.Outcome State Fault Refusal := answer (s.execute (.jpeS n))

/-- JPN a: PC <- a if FLAG.E is 0 (R195); opcode 0x15, short form, steps `rtnJpn`. -/
def execJpnS (n : Word) (s : State) : Host.Outcome State Fault Refusal := answer (s.execute (.jpnS n))

/-- JMP a: PC <- a (R190); opcode 0x90, long form, steps `rtnJmp`. -/
def execJmpL (n : Word) (s : State) : Host.Outcome State Fault Refusal := answer (s.execute (.jmpL n))

/-- CMP #n: FLAG.E <- (ACC = n), the ALU latch written (R191); opcode 0x91, long form, steps `rtnCmpImm`. -/
def execCmpImmL (n : Word) (s : State) : Host.Outcome State Fault Refusal := answer (s.execute (.cmpImmL n))

/-- CMP a: FLAG.E <- (ACC = M[a]), the ALU latch written (R192); opcode 0x92, long form, steps `rtnCmpDir`. -/
def execCmpDirL (n : Word) (s : State) : Host.Outcome State Fault Refusal := answer (s.execute (.cmpDirL n))

/-- CMI a: FLAG.E <- (ACC = M[M[a]]), the ALU latch written (R193); opcode 0x93, long form, steps `rtnCmi`. -/
def execCmiL (n : Word) (s : State) : Host.Outcome State Fault Refusal := answer (s.execute (.cmiL n))

/-- JPE a: PC <- a if FLAG.E is 1 (R194); opcode 0x94, long form, steps `rtnJpe`. -/
def execJpeL (n : Word) (s : State) : Host.Outcome State Fault Refusal := answer (s.execute (.jpeL n))

/-- JPN a: PC <- a if FLAG.E is 0 (R195); opcode 0x95, long form, steps `rtnJpn`. -/
def execJpnL (n : Word) (s : State) : Host.Outcome State Fault Refusal := answer (s.execute (.jpnL n))

end Sys2Proof.Machine
end

