-- ==== Sys2Proof/Machine/DataMovement.lean ====
section
/-! DEFINITION. The meanings of the data movement instructions (41_data_movement.md R150 to R157). Each runs the RTN
sequence that the catalog gives its entry (Machine/Catalog.lean) through `State.execute`: the
machine stands at the end of the instruction's DECODE, PC past its words. -/

namespace Sys2Proof.Machine

/-- LDM #n: ACC <- n (R150); opcode 0x01, short form, steps `rtnLdm`. -/
def execLdmS (n : Word) (s : State) : Host.Outcome State Fault Refusal := answer (s.execute (.ldmS n))

/-- LDD a: ACC <- M[a] (R151); opcode 0x02, short form, steps `rtnLdd`. -/
def execLddS (n : Word) (s : State) : Host.Outcome State Fault Refusal := answer (s.execute (.lddS n))

/-- LDI a: ACC <- M[M[a]] (R152); opcode 0x03, short form, steps `rtnLdi`. -/
def execLdiS (n : Word) (s : State) : Host.Outcome State Fault Refusal := answer (s.execute (.ldiS n))

/-- LDX a: ACC <- M[wrap16(a + IX)] (R153); opcode 0x04, short form, steps `rtnLdx`. -/
def execLdxS (n : Word) (s : State) : Host.Outcome State Fault Refusal := answer (s.execute (.ldxS n))

/-- LDR #n: IX <- n (R154); opcode 0x05, short form, steps `rtnLdr`. -/
def execLdrS (n : Word) (s : State) : Host.Outcome State Fault Refusal := answer (s.execute (.ldrS n))

/-- MOV IX: IX <- ACC (R155); opcode 0x06, short form, steps `rtnMovIx`. -/
def execMovIx (n : Word) (s : State) : Host.Outcome State Fault Refusal := answer (s.execute (.movIx n))

/-- STO a: M[a] <- ACC (R156); opcode 0x07, short form, steps `rtnSto`. -/
def execStoS (n : Word) (s : State) : Host.Outcome State Fault Refusal := answer (s.execute (.stoS n))

/-- LDM #n: ACC <- n (R150); opcode 0x81, long form, steps `rtnLdm`. -/
def execLdmL (n : Word) (s : State) : Host.Outcome State Fault Refusal := answer (s.execute (.ldmL n))

/-- LDD a: ACC <- M[a] (R151); opcode 0x82, long form, steps `rtnLdd`. -/
def execLddL (n : Word) (s : State) : Host.Outcome State Fault Refusal := answer (s.execute (.lddL n))

/-- LDI a: ACC <- M[M[a]] (R152); opcode 0x83, long form, steps `rtnLdi`. -/
def execLdiL (n : Word) (s : State) : Host.Outcome State Fault Refusal := answer (s.execute (.ldiL n))

/-- LDX a: ACC <- M[wrap16(a + IX)] (R153); opcode 0x84, long form, steps `rtnLdx`. -/
def execLdxL (n : Word) (s : State) : Host.Outcome State Fault Refusal := answer (s.execute (.ldxL n))

/-- LDR #n: IX <- n (R154); opcode 0x85, long form, steps `rtnLdr`. -/
def execLdrL (n : Word) (s : State) : Host.Outcome State Fault Refusal := answer (s.execute (.ldrL n))

/-- STO a: M[a] <- ACC (R156); opcode 0x87, long form, steps `rtnSto`. -/
def execStoL (n : Word) (s : State) : Host.Outcome State Fault Refusal := answer (s.execute (.stoL n))

end Sys2Proof.Machine
end

