-- ==== Sys2Proof/Machine/InputOutput.lean ====
section
/-! DEFINITION. The meanings of the input, output and system instructions (45_io_system.md R230 to R234). Each runs the RTN
sequence that the catalog gives its entry (Machine/Catalog.lean) through `State.execute`: the
machine stands at the end of the instruction's DECODE, PC past its words. -/

namespace Sys2Proof.Machine

/-- IN: ACC <- the head of INQ, blocked while INQ is empty (R230); opcode 0x1E, short form, steps `rtnIn`. -/
def execInput (n : Word) (s : State) : Host.Outcome State Fault Refusal := answer (s.execute (.input n))

/-- OUT: ACC is appended to OUTQ (R232); opcode 0x1F, short form, steps `rtnOut`. -/
def execOutput (n : Word) (s : State) : Host.Outcome State Fault Refusal := answer (s.execute (.output n))

/-- END: phase HALT (R233); opcode 0x20, short form, steps `rtnEnd`. -/
def execStop (n : Word) (s : State) : Host.Outcome State Fault Refusal := answer (s.execute (.stop n))

end Sys2Proof.Machine
end

