-- ==== Sys2Proof/Machine/LogicShift.lean ====
section
/-! DEFINITION. The meanings of the logic and shift instructions (44_logic_shift.md R210 to R217). Each runs the RTN
sequence that the catalog gives its entry (Machine/Catalog.lean) through `State.execute`: the
machine stands at the end of the instruction's DECODE, PC past its words. -/

namespace Sys2Proof.Machine

/-- AND #n (R210); opcode 0x16, short form, steps `rtnAndImm`. -/
def execAndImmS (n : Word) (s : State) : Host.Outcome State Fault Refusal := answer (s.execute (.andImmS n))

/-- AND a (R211); opcode 0x17, short form, steps `rtnAndDir`. -/
def execAndDirS (n : Word) (s : State) : Host.Outcome State Fault Refusal := answer (s.execute (.andDirS n))

/-- OR #n (R212); opcode 0x18, short form, steps `rtnOrImm`. -/
def execOrImmS (n : Word) (s : State) : Host.Outcome State Fault Refusal := answer (s.execute (.orImmS n))

/-- OR a (R213); opcode 0x19, short form, steps `rtnOrDir`. -/
def execOrDirS (n : Word) (s : State) : Host.Outcome State Fault Refusal := answer (s.execute (.orDirS n))

/-- XOR #n (R214); opcode 0x1A, short form, steps `rtnXorImm`. -/
def execXorImmS (n : Word) (s : State) : Host.Outcome State Fault Refusal := answer (s.execute (.xorImmS n))

/-- XOR a (R215); opcode 0x1B, short form, steps `rtnXorDir`. -/
def execXorDirS (n : Word) (s : State) : Host.Outcome State Fault Refusal := answer (s.execute (.xorDirS n))

/-- LSL #n: the whole operand is the count (R216); opcode 0x1C, short form, steps `rtnLsl`. -/
def execLslS (n : Word) (s : State) : Host.Outcome State Fault Refusal := answer (s.execute (.lslS n))

/-- LSR #n: the whole operand is the count (R217); opcode 0x1D, short form, steps `rtnLsr`. -/
def execLsrS (n : Word) (s : State) : Host.Outcome State Fault Refusal := answer (s.execute (.lsrS n))

/-- AND #n (R210); opcode 0x96, long form, steps `rtnAndImm`. -/
def execAndImmL (n : Word) (s : State) : Host.Outcome State Fault Refusal := answer (s.execute (.andImmL n))

/-- AND a (R211); opcode 0x97, long form, steps `rtnAndDir`. -/
def execAndDirL (n : Word) (s : State) : Host.Outcome State Fault Refusal := answer (s.execute (.andDirL n))

/-- OR #n (R212); opcode 0x98, long form, steps `rtnOrImm`. -/
def execOrImmL (n : Word) (s : State) : Host.Outcome State Fault Refusal := answer (s.execute (.orImmL n))

/-- OR a (R213); opcode 0x99, long form, steps `rtnOrDir`. -/
def execOrDirL (n : Word) (s : State) : Host.Outcome State Fault Refusal := answer (s.execute (.orDirL n))

/-- XOR #n (R214); opcode 0x9A, long form, steps `rtnXorImm`. -/
def execXorImmL (n : Word) (s : State) : Host.Outcome State Fault Refusal := answer (s.execute (.xorImmL n))

/-- XOR a (R215); opcode 0x9B, long form, steps `rtnXorDir`. -/
def execXorDirL (n : Word) (s : State) : Host.Outcome State Fault Refusal := answer (s.execute (.xorDirL n))

/-- LSL #n: the whole operand is the count (R216); opcode 0x9C, long form, steps `rtnLsl`. -/
def execLslL (n : Word) (s : State) : Host.Outcome State Fault Refusal := answer (s.execute (.lslL n))

/-- LSR #n: the whole operand is the count (R217); opcode 0x9D, long form, steps `rtnLsr`. -/
def execLsrL (n : Word) (s : State) : Host.Outcome State Fault Refusal := answer (s.execute (.lsrL n))

end Sys2Proof.Machine
end

