-- ==== Sys2Proof/Machine/Dispatch.lean ====
section
/-! DEFINITION. The dispatch of an instruction to its meaning, one arm per constructor of Instr. -/

namespace Sys2Proof.Machine

def exec (i : Instr) (s : State) : Host.Outcome State Fault Refusal :=
  match i with
  | .ldmS n => Sys2Proof.Machine.execLdmS n s
  | .lddS n => Sys2Proof.Machine.execLddS n s
  | .ldiS n => Sys2Proof.Machine.execLdiS n s
  | .ldxS n => Sys2Proof.Machine.execLdxS n s
  | .ldrS n => Sys2Proof.Machine.execLdrS n s
  | .movIx n => Sys2Proof.Machine.execMovIx n s
  | .stoS n => Sys2Proof.Machine.execStoS n s
  | .addImmS n => Sys2Proof.Machine.execAddImmS n s
  | .addDirS n => Sys2Proof.Machine.execAddDirS n s
  | .subImmS n => Sys2Proof.Machine.execSubImmS n s
  | .subDirS n => Sys2Proof.Machine.execSubDirS n s
  | .incAcc n => Sys2Proof.Machine.execIncAcc n s
  | .incIx n => Sys2Proof.Machine.execIncIx n s
  | .decAcc n => Sys2Proof.Machine.execDecAcc n s
  | .decIx n => Sys2Proof.Machine.execDecIx n s
  | .jmpS n => Sys2Proof.Machine.execJmpS n s
  | .cmpImmS n => Sys2Proof.Machine.execCmpImmS n s
  | .cmpDirS n => Sys2Proof.Machine.execCmpDirS n s
  | .cmiS n => Sys2Proof.Machine.execCmiS n s
  | .jpeS n => Sys2Proof.Machine.execJpeS n s
  | .jpnS n => Sys2Proof.Machine.execJpnS n s
  | .andImmS n => Sys2Proof.Machine.execAndImmS n s
  | .andDirS n => Sys2Proof.Machine.execAndDirS n s
  | .orImmS n => Sys2Proof.Machine.execOrImmS n s
  | .orDirS n => Sys2Proof.Machine.execOrDirS n s
  | .xorImmS n => Sys2Proof.Machine.execXorImmS n s
  | .xorDirS n => Sys2Proof.Machine.execXorDirS n s
  | .lslS n => Sys2Proof.Machine.execLslS n s
  | .lsrS n => Sys2Proof.Machine.execLsrS n s
  | .input n => Sys2Proof.Machine.execInput n s
  | .output n => Sys2Proof.Machine.execOutput n s
  | .stop n => Sys2Proof.Machine.execStop n s
  | .ldmL n => Sys2Proof.Machine.execLdmL n s
  | .lddL n => Sys2Proof.Machine.execLddL n s
  | .ldiL n => Sys2Proof.Machine.execLdiL n s
  | .ldxL n => Sys2Proof.Machine.execLdxL n s
  | .ldrL n => Sys2Proof.Machine.execLdrL n s
  | .stoL n => Sys2Proof.Machine.execStoL n s
  | .addImmL n => Sys2Proof.Machine.execAddImmL n s
  | .addDirL n => Sys2Proof.Machine.execAddDirL n s
  | .subImmL n => Sys2Proof.Machine.execSubImmL n s
  | .subDirL n => Sys2Proof.Machine.execSubDirL n s
  | .jmpL n => Sys2Proof.Machine.execJmpL n s
  | .cmpImmL n => Sys2Proof.Machine.execCmpImmL n s
  | .cmpDirL n => Sys2Proof.Machine.execCmpDirL n s
  | .cmiL n => Sys2Proof.Machine.execCmiL n s
  | .jpeL n => Sys2Proof.Machine.execJpeL n s
  | .jpnL n => Sys2Proof.Machine.execJpnL n s
  | .andImmL n => Sys2Proof.Machine.execAndImmL n s
  | .andDirL n => Sys2Proof.Machine.execAndDirL n s
  | .orImmL n => Sys2Proof.Machine.execOrImmL n s
  | .orDirL n => Sys2Proof.Machine.execOrDirL n s
  | .xorImmL n => Sys2Proof.Machine.execXorImmL n s
  | .xorDirL n => Sys2Proof.Machine.execXorDirL n s
  | .lslL n => Sys2Proof.Machine.execLslL n s
  | .lsrL n => Sys2Proof.Machine.execLsrL n s

end Sys2Proof.Machine
end

