-- ==== Sys2Proof/Machine/Step.lean ====
section
/-! DEFINITION. The step of the model: one whole instruction (log 1), made of the RTN steps of
Machine/Control.lean; and how an instruction is placed for it to run. -/

namespace Sys2Proof.Machine

/-- One instruction (log 1). From a state in FETCH or DECODE: the RTN steps up to the end of
DECODE, then `exec` of the decoded instruction; an error raised on the way leaves the machine in
HALT. In EXECUTE: the rest of the current instruction. In HALT: nothing (R101). -/
def step (s : State) : Host.Outcome State Fault Refusal :=
  match s.phase with
  | .halt => .next s
  | .execute => s.resume
  | _ =>
    match s.frontEnd frontSteps with
    | .next t =>
      if t.phase = .execute then
        match t.decoded with
        | some i => exec i t
        | none => .fault .noSuchStep
      else .next t
    | .fault f => .fault f
    | .refused r => .refused r

/-- The instruction with bits `w` stored where `step` fetches next: at PC and PC + 1 (bits at or
above `nbits` are 0), with the control unit at the start of FETCH (log 13). A word beyond MEM_SIZE is not
stored. -/
def State.withFetchWord (s : State) (nbits w : Nat) : State :=
  { s with mem := s.placeAtPc (tableWords nbits w), phase := .fetch, k := 0 }

end Sys2Proof.Machine
end

