-- ==== Sys2Proof/Machine/SourceText.lean ====
section
/-! DEFINITION. The text level of the assembler (50_assembler.md R252 to R259): trimming, splitting, names,
mnemonics, operand tokens, literal values, and which catalog entry a line selects. -/

namespace Sys2Proof.Machine

/-! ### Characters -/

/-- White space: spaces and tabs (R252). -/
def isWhite (c : Char) : Bool := c == ' ' || c == '\t'

/-- `0-9`. -/
def isDigit (c : Char) : Bool := decide (48 ≤ c.toNat) && decide (c.toNat ≤ 57)

/-- `A-Z`. -/
def isUpperLetter (c : Char) : Bool := decide (65 ≤ c.toNat) && decide (c.toNat ≤ 90)

/-- `a-z`. -/
def isLowerLetter (c : Char) : Bool := decide (97 ≤ c.toNat) && decide (c.toNat ≤ 122)

/-- `A-Za-z_`, the first character of a name (R254). -/
def isNameStart (c : Char) : Bool := isUpperLetter c || isLowerLetter c || c == '_'

/-- `A-Za-z0-9_`, a later character of a name (R254). -/
def isNameChar (c : Char) : Bool := isNameStart c || isDigit c

/-- `0-9 A-F a-f` (R256). -/
def isHexDigit (c : Char) : Bool :=
  isDigit c || (decide (65 ≤ c.toNat) && decide (c.toNat ≤ 70))
    || (decide (97 ≤ c.toNat) && decide (c.toNat ≤ 102))

/-- The value of a hexadecimal (so also of a denary or binary) digit. -/
def digitValue (c : Char) : Nat :=
  if isDigit c then c.toNat - 48
  else if isUpperLetter c then c.toNat - 55
  else c.toNat - 87

/-- The upper-case form of a letter; mnemonics and register names are matched without regard to
case (R255). -/
def toUpper (c : Char) : Char := if isLowerLetter c then Char.ofNat (c.toNat - 32) else c

/-- A name: `[A-Za-z_][A-Za-z0-9_]*` (R254). -/
def isName : List Char → Bool
  | [] => false
  | c :: cs => isNameStart c && cs.all isNameChar

/-- One or more digits. -/
def isNumber (t : List Char) : Bool := !t.isEmpty && t.all isDigit

/-- The number a digit text writes in a base. -/
def numberIn (base : Nat) (t : List Char) : Nat := t.foldl (fun v c => v * base + digitValue c) 0

/-! ### Lines -/

/-- Remove leading and trailing white space (R252). -/
def strip (t : List Char) : List Char :=
  ((t.dropWhile isWhite).reverse.dropWhile isWhite).reverse

/-- What TRIM keeps of a raw line: the text before the first `;`, without leading and trailing
white space (R252, D24). -/
def trimLine (t : List Char) : List Char := strip (t.takeWhile (fun c => !(c == ';')))

/-- Split at runs of white space into tokens (R253). -/
def tokens (t : List Char) : List (List Char) := go t []
where
  /-- The token read so far, reversed, is the second argument. -/
  go : List Char → List Char → List (List Char)
    | [], [] => []
    | [], cur => [cur.reverse]
    | c :: cs, cur =>
      if isWhite c then (if cur.isEmpty then go cs [] else cur.reverse :: go cs [])
      else go cs (c :: cur)

/-- The label text before the first `:` with white space removed, if the line has a `:`, and the
statement (R253; log 11). -/
def splitLabel (t : List Char) : Option (List Char) × List Char :=
  if t.contains ':' then
    (some ((t.takeWhile (fun c => !(c == ':'))).filter (fun c => !isWhite c)),
      (t.dropWhile (fun c => !(c == ':'))).drop 1)
  else (none, t)

/-! ### Operand tokens -/

/-- The class of an operand token (R256). -/
inductive OperandToken where
  | literal (v : Int)
  | bare (n : Nat)
  | symbol (name : List Char)
deriving DecidableEq, Repr

/-- A denary immediate after its `#`: an optional `-` and one or more digits (R256). -/
def denaryLiteral : List Char → Option OperandToken
  | '-' :: ds => if isNumber ds then some (.literal (-(numberIn 10 ds : Int))) else none
  | ds => if isNumber ds then some (.literal (numberIn 10 ds)) else none

/-- A hexadecimal immediate after its `&` (R256). -/
def hexLiteral (ds : List Char) : Option OperandToken :=
  if !ds.isEmpty && ds.all isHexDigit then some (.literal (numberIn 16 ds)) else none

/-- A binary immediate after its `B`, whose rest is all digits (R256). -/
def binaryLiteral (ds : List Char) : Option OperandToken :=
  if ds.all (fun c => c == '0' || c == '1') then some (.literal (numberIn 2 ds)) else none

/-- Classify an operand token by its first character (R256); none is `InvalidLiteral`. -/
def classify (t : List Char) : Option OperandToken :=
  match t with
  | [] => none
  | c :: cs =>
    if c = '#' then denaryLiteral cs
    else if c = '&' then hexLiteral cs
    else if c = 'B' ∧ isNumber cs = true then binaryLiteral cs
    else if isNumber t then some (.bare (numberIn 10 t))
    else if isName t then some (.symbol t)
    else none

/-- The encoded value of an immediate literal in its range −32768..65535 (R258); a binary or
hexadecimal literal is never negative, so the same bounds are its range. -/
def literalValue (v : Int) : Option Word :=
  if -32768 ≤ v ∧ v ≤ 65535 then some (wrap16 v) else none

/-- The encoded value of a bare number, at most 65535 (R258). -/
def bareValue (n : Nat) : Option Word := if n ≤ 65535 then some (BitVec.ofNat 16 n) else none

/-! ### Mnemonics and the entries they select -/

/-- The 24 mnemonics of the source language (R255). -/
inductive SourceMnemonic where
  | ldm | ldd | ldi | ldx | ldr | mov | sto | add | sub | inc | dec | jmp
  | cmp | cmi | jpe | jpn | and | or | xor | lsl | lsr | input | output | stop
deriving DecidableEq, Repr

/-- Their spellings in upper case (R255). -/
def mnemonicTable : List (List Char × SourceMnemonic) :=
  [("LDM".toList, .ldm), ("LDD".toList, .ldd), ("LDI".toList, .ldi), ("LDX".toList, .ldx),
   ("LDR".toList, .ldr), ("MOV".toList, .mov), ("STO".toList, .sto), ("ADD".toList, .add),
   ("SUB".toList, .sub), ("INC".toList, .inc), ("DEC".toList, .dec), ("JMP".toList, .jmp),
   ("CMP".toList, .cmp), ("CMI".toList, .cmi), ("JPE".toList, .jpe), ("JPN".toList, .jpn),
   ("AND".toList, .and), ("OR".toList, .or), ("XOR".toList, .xor), ("LSL".toList, .lsl),
   ("LSR".toList, .lsr), ("IN".toList, .input), ("OUT".toList, .output), ("END".toList, .stop)]

/-- The mnemonic a token spells, without regard to case (R255). -/
def parseMnemonic (t : List Char) : Option SourceMnemonic :=
  (mnemonicTable.find? (fun r => r.1 == t.map toUpper)).map (fun r => r.2)

/-- The form of a mnemonic with an immediate literal, short or long (R257, R259). -/
def immForm (m : SourceMnemonic) (l : InstrLength) : Option (Word → Instr) :=
  match m, l with
  | .ldm, .short => some .ldmS | .ldm, .long => some .ldmL
  | .ldr, .short => some .ldrS | .ldr, .long => some .ldrL
  | .lsl, .short => some .lslS | .lsl, .long => some .lslL
  | .lsr, .short => some .lsrS | .lsr, .long => some .lsrL
  | .add, .short => some .addImmS | .add, .long => some .addImmL
  | .sub, .short => some .subImmS | .sub, .long => some .subImmL
  | .cmp, .short => some .cmpImmS | .cmp, .long => some .cmpImmL
  | .and, .short => some .andImmS | .and, .long => some .andImmL
  | .or, .short => some .orImmS | .or, .long => some .orImmL
  | .xor, .short => some .xorImmS | .xor, .long => some .xorImmL
  | _, _ => none

/-- The form of a mnemonic with a bare number or a symbol, short or long (R257, R259). -/
def addrForm (m : SourceMnemonic) (l : InstrLength) : Option (Word → Instr) :=
  match m, l with
  | .add, .short => some .addDirS | .add, .long => some .addDirL
  | .sub, .short => some .subDirS | .sub, .long => some .subDirL
  | .cmp, .short => some .cmpDirS | .cmp, .long => some .cmpDirL
  | .and, .short => some .andDirS | .and, .long => some .andDirL
  | .or, .short => some .orDirS | .or, .long => some .orDirL
  | .xor, .short => some .xorDirS | .xor, .long => some .xorDirL
  | .ldd, .short => some .lddS | .ldd, .long => some .lddL
  | .sto, .short => some .stoS | .sto, .long => some .stoL
  | .jmp, .short => some .jmpS | .jmp, .long => some .jmpL
  | .jpe, .short => some .jpeS | .jpe, .long => some .jpeL
  | .jpn, .short => some .jpnS | .jpn, .long => some .jpnL
  | .ldi, .short => some .ldiS | .ldi, .long => some .ldiL
  | .cmi, .short => some .cmiS | .cmi, .long => some .cmiL
  | .ldx, .short => some .ldxS | .ldx, .long => some .ldxL
  | _, _ => none

/-- The form of a register-mode mnemonic with its register operand, in upper case (R255, R257). -/
def regForm (m : SourceMnemonic) (reg : List Char) : Option (Word → Instr) :=
  if reg = "ACC".toList then
    match m with
    | .inc => some .incAcc
    | .dec => some .decAcc
    | _ => none
  else if reg = "IX".toList then
    match m with
    | .inc => some .incIx
    | .dec => some .decIx
    | .mov => some .movIx
    | _ => none
  else none

/-- The form of a mnemonic with no operand (R257). -/
def bareForm (m : SourceMnemonic) : Option (Word → Instr) :=
  match m with
  | .input => some .input
  | .output => some .output
  | .stop => some .stop
  | _ => none

/-- The register-mode mnemonics, whose operand is a register name (R256, R257). -/
def takesRegister (m : SourceMnemonic) : Bool :=
  match m with
  | .inc => true
  | .dec => true
  | .mov => true
  | _ => false

/-! ### Parsed lines -/

/-- The operand of a parsed instruction: none (or a register), a value, or a symbol that PASS2
resolves (R262). -/
inductive LineOperand where
  | none
  | value (v : Word)
  | symbol (name : List Char)
deriving DecidableEq, Repr

/-- A trimmed line, parsed (R253). -/
inductive ParsedLine where
  | instr (label : Option (List Char)) (form : CatalogEntry) (operand : LineOperand)
  | data (label : List Char) (value : Word)
deriving DecidableEq, Repr

/-- Short or long, from the encoded value of a literal or bare number (R259). -/
def lengthFor (v : Word) : InstrLength := if 255 < v.toNat then .long else .short

/-- A literal or bare-number operand: the form of R257 (else MalformedLine), the range of R258
(else OperandOutOfRange), the length of R259. -/
def valueOperand (forms : InstrLength → Option (Word → Instr)) (value : Option Word) :
    Except AsmErrorKind (CatalogEntry × LineOperand) :=
  match forms .short with
  | none => .error .malformedLine
  | some _ =>
    match value with
    | none => .error .operandOutOfRange
    | some v =>
      match forms (lengthFor v) with
      | none => .error .malformedLine
      | some f => .ok (formEntry f, .value v)

/-- The entry and operand of an instruction statement with an operand token (R256 to R259). -/
def parseOperand (m : SourceMnemonic) (t : List Char) :
    Except AsmErrorKind (CatalogEntry × LineOperand) :=
  if takesRegister m then
    match regForm m (t.map toUpper) with
    | some f => .ok (formEntry f, .none)
    | none => .error .malformedLine
  else
    match classify t with
    | none => .error .invalidLiteral
    | some (.literal v) => valueOperand (immForm m) (literalValue v)
    | some (.bare n) => valueOperand (addrForm m) (bareValue n)
    | some (.symbol name) =>
      match addrForm m .short with
      | some f => .ok (formEntry f, .symbol name)
      | none => .error .malformedLine

/-- The value of a data declaration: an immediate literal or a bare number (R253). A token that is
ill formed as a literal (`X: - #&12`, `X: - @`) is InvalidLiteral, as R256 has it, where R253's "other
than one literal" can also be read as MalformedLine (DESIGN CHOICE, log 6). -/
def parseData (t : List Char) : Except AsmErrorKind Word :=
  match classify t with
  | none => .error .invalidLiteral
  | some (.symbol _) => .error .malformedLine
  | some (.literal v) =>
    match literalValue v with
    | some w => .ok w
    | none => .error .operandOutOfRange
  | some (.bare n) =>
    match bareValue n with
    | some w => .ok w
    | none => .error .operandOutOfRange

/-- The statement of a line, given its label and its tokens (R253, R255, R257). -/
def parseStatement (label : Option (List Char)) : List (List Char) → Except AsmErrorKind ParsedLine
  | [] => .error .malformedLine
  | m :: rest =>
    if m = "-".toList then
      match label, rest with
      | some l, [t] =>
        match parseData t with
        | .ok v => .ok (.data l v)
        | .error e => .error e
      | _, _ => .error .malformedLine
    else
      match rest with
      | _ :: _ :: _ => .error .malformedLine
      | operands =>
        match parseMnemonic m with
        | none => .error .unknownOpcode
        | some sm =>
          match operands with
          | t :: _ =>
            match parseOperand sm t with
            | .ok (e, o) => .ok (.instr label e o)
            | .error e => .error e
          | [] =>
            match bareForm sm with
            | some f => .ok (.instr label (formEntry f) .none)
            | none => .error .malformedLine

/-- Parse a trimmed line (R253 to R259). Where a line has two mistakes, the error is that of the
first rule, in the order R253, R254, R255, R256, R257, R258 (log 6). -/
def parseLine (t : List Char) : Except AsmErrorKind ParsedLine :=
  match splitLabel t with
  | (some l, stmt) =>
    if isName l then parseStatement (some l) (tokens stmt) else .error .malformedLine
  | (none, stmt) => parseStatement none (tokens stmt)

end Sys2Proof.Machine
end

