-- ==== Sys2Proof/Machine/Disassembler.lean ====
section
/-! DEFINITION. Disassembly of an instruction with the catalog (30_encoding.md R81). -/

namespace Sys2Proof.Machine

/-- The character of a denary digit. -/
def digitChar (d : Nat) : Char := Char.ofNat (48 + d)

/-- The denary digits of a number, with as many digits as the first argument allows. -/
def denaryDigits : Nat → Nat → List Char
  | 0, _ => []
  | fuel + 1, n =>
    if n < 10 then [digitChar n] else denaryDigits fuel (n / 10) ++ [digitChar (n % 10)]

/-- A word in denary: at most five digits. -/
def denary (w : Word) : List Char := denaryDigits 5 w.toNat

/-- The spelling of a catalog mnemonic, the register name of a register-mode entry included
(R75, R81). -/
def Mnemonic.text : Mnemonic → List Char
  | .ldm => "LDM".toList
  | .ldd => "LDD".toList
  | .ldi => "LDI".toList
  | .ldx => "LDX".toList
  | .ldr => "LDR".toList
  | .movIx => "MOV IX".toList
  | .sto => "STO".toList
  | .add => "ADD".toList
  | .sub => "SUB".toList
  | .incAcc => "INC ACC".toList
  | .incIx => "INC IX".toList
  | .decAcc => "DEC ACC".toList
  | .decIx => "DEC IX".toList
  | .jmp => "JMP".toList
  | .cmp => "CMP".toList
  | .cmi => "CMI".toList
  | .jpe => "JPE".toList
  | .jpn => "JPN".toList
  | .and => "AND".toList
  | .or => "OR".toList
  | .xor => "XOR".toList
  | .lsl => "LSL".toList
  | .lsr => "LSR".toList
  | .input => "IN".toList
  | .output => "OUT".toList
  | .stop => "END".toList

/-- The source text of an instruction: the mnemonic, then `#n` for immediate, a bare address for
direct, indirect and indexed, nothing more for register and none mode (R81). -/
def disassemble (i : Instr) : List Char :=
  match i.entry.mode with
  | .immediate => i.entry.mnemonic.text ++ " #".toList ++ denary i.operand
  | .direct => i.entry.mnemonic.text ++ " ".toList ++ denary i.operand
  | .indirect => i.entry.mnemonic.text ++ " ".toList ++ denary i.operand
  | .indexed => i.entry.mnemonic.text ++ " ".toList ++ denary i.operand
  | .register => i.entry.mnemonic.text
  | .none => i.entry.mnemonic.text

end Sys2Proof.Machine
end

