-- ==== Sys2Proof/Machine/Assembler.lean ====
section
/-! DEFINITION. The two-pass assembler as a stepper (50_assembler.md R250, R251, R260 to R266). -/

namespace Sys2Proof.Machine

/-! ### The symbol table -/

/-- The entry of a label in the symbol table, if it has one (labels are case-sensitive, R254). -/
def symbolOf (symbols : List (List Char × SymVal)) (l : List Char) : Option SymVal :=
  (symbols.find? (fun r => r.1 == l)).map (fun r => r.2)

/-- The label and value a symbol resolves to in PASS2, where every symbol is an address (R261). -/
def SymVal.address : SymVal → Nat
  | .instr a => a
  | .data i => i
  | .addr a => a

/-- The resolution of a symbol at the end of PASS1: a data label gets its address in the data
region (R261). -/
def SymVal.resolve (dataBase : Nat) : SymVal → SymVal
  | .instr a => .addr a
  | .data d => .addr (dataBase + d)
  | .addr a => .addr a

/-- The placement of a data line at the end of PASS1 (R261). -/
def LineInfo.resolve (dataBase : Nat) : LineInfo → LineInfo
  | .instr a len e => .instr a len e
  | .data d v => .data (dataBase + d) v

/-! ### One step -/

/-- The failing step changes nothing but `err` (R266). -/
def AsmState.fail (a : AsmState) (kind : AsmErrorKind) (line : Nat) (detail : AsmDetail) :
    AsmState :=
  { a with err := some { kind := kind, line := line, detail := detail } }

/-- The end of a phase: the next one starts at cursor 0 (R251). -/
def AsmState.enter (a : AsmState) (p : AsmPhase) : AsmState := { a with phase := p, cursor := 0 }

/-- TRIM of one raw line (R252). -/
def AsmState.trimStep (a : AsmState) : AsmState :=
  match a.raw[a.cursor]? with
  | none => a.enter .pass1
  | some t =>
    let kept := trimLine t
    { a with
      trimmed := if kept.isEmpty then a.trimmed else a.trimmed ++ [(a.cursor + 1, kept)]
      cursor := a.cursor + 1 }

/-- Record a label with its value, if the line has one (R260). -/
def AsmState.define (a : AsmState) (label : Option (List Char)) (v : SymVal) : AsmState :=
  match label with
  | none => a
  | some l => { a with symbols := a.symbols ++ [(l, v)] }

/-- A label that is already in the table (R260). -/
def AsmState.duplicate (a : AsmState) (label : Option (List Char)) : Option (List Char) :=
  match label with
  | none => none
  | some l => if (symbolOf a.symbols l).isSome then some l else none

/-- PASS1 of one parsed line without an error (R260). -/
def AsmState.scan (a : AsmState) : ParsedLine → AsmState
  | .instr label e _ =>
    { a.define label (.instr a.instAddr) with
      info := a.info ++ [.instr a.instAddr e.length.words e]
      instAddr := a.instAddr + e.length.words
      cursor := a.cursor + 1 }
  | .data label v =>
    { a.define (some label) (.data a.dataIndex) with
      info := a.info ++ [.data a.dataIndex v]
      dataIndex := a.dataIndex + 1
      cursor := a.cursor + 1 }

/-- The label of a parsed line. -/
def ParsedLine.label : ParsedLine → Option (List Char)
  | .instr l _ _ => l
  | .data l _ => some l

/-- The end of PASS1: the data region follows the last instruction word (R261). -/
def AsmState.fixData (a : AsmState) : AsmState :=
  { a with
    symbols := a.symbols.map (fun r => (r.1, r.2.resolve a.instAddr))
    info := a.info.map (LineInfo.resolve a.instAddr)
    phase := .pass2
    cursor := 0 }

/-- PASS1 of one trimmed line, or the end of the pass (R260, R261). -/
def AsmState.pass1Step (a : AsmState) : AsmState :=
  match a.trimmed[a.cursor]? with
  | none => a.fixData
  | some (n, text) =>
    match parseLine text with
    | .error e => a.fail e n (.text (Config.parseErrorDetail n text))
    | .ok p =>
      match a.duplicate p.label with
      | some l => a.fail .duplicateLabel n (.text l)
      | none => a.scan p

/-- What PASS2 resolves a line's operand to: a value, or the error kind and the token (R262). -/
def resolveOperand (symbols : List (List Char × SymVal)) (len : Nat) :
    LineOperand → Except (AsmErrorKind × List Char) Nat
  | .none => .ok 0
  | .value v => .ok v.toNat
  | .symbol t =>
    match symbolOf symbols t with
    | none => .error (.undefinedLabel, t)
    | some s =>
      if len = 1 ∧ 255 < s.address then .error (.operandOutOfRange, t) else .ok s.address

/-- The words of an instruction line (R262). -/
def lineWords (e : CatalogEntry) (len value : Nat) : List Word :=
  if len = 1 then [BitVec.ofNat 16 (e.opcode.toNat * 256 + value)]
  else [BitVec.ofNat 16 (e.opcode.toNat * 256), BitVec.ofNat 16 value]

/-- Write a line's words at its address and go on, unless one of them lies at or above MEM_SIZE:
the check precedes every write (R262). -/
def AsmState.emit (a : AsmState) (memSize : Nat) (mem : Memory) (n addr : Nat) (words : List Word) :
    AsmState × Memory :=
  if memSize ≤ addr + words.length - 1 then (a.fail .addressOutOfBounds n (.address addr), mem)
  else ({ a with cursor := a.cursor + 1 }, mem.writeList addr words)

/-- The operand of an instruction line, read again from its text (R262: PASS2 re-scans). A text
that PASS1 accepted parses; on another the operand counts as absent. -/
def operandOfText (text : List Char) : LineOperand :=
  match parseLine text with
  | .ok (.instr _ _ o) => o
  | _ => .none

/-- PASS2 of one trimmed line, or the end of the pass (R262, R263). -/
def AsmState.pass2Step (a : AsmState) (memSize : Nat) (mem : Memory) : AsmState × Memory :=
  match a.trimmed[a.cursor]?, a.info[a.cursor]? with
  | some (n, text), some (.instr addr len e) =>
    match resolveOperand a.symbols len (operandOfText text) with
    | .error (kind, t) => (a.fail kind n (.text t), mem)
    | .ok value => a.emit memSize mem n addr (lineWords e len value)
  | some (n, _), some (.data addr v) => a.emit memSize mem n addr [v]
  | _, _ => (a.enter .done, mem)

/-- One unit of the assembler's work (R251): nothing once it has failed or is DONE. -/
def AsmState.step (a : AsmState) (memSize : Nat) (mem : Memory) : AsmState × Memory :=
  if a.err.isSome then (a, mem)
  else
    match a.phase with
    | .trim => (a.trimStep, mem)
    | .pass1 => (a.pass1Step, mem)
    | .pass2 => a.pass2Step memSize mem
    | .done => (a, mem)

/-- The assembler's `step()` on the machine: it writes memory and its own state, no CPU register
(R251, R264). With no assembler there is nothing to step. -/
def State.asmStep (s : State) : State :=
  match s.asm with
  | none => s
  | some a =>
    { s with asm := some (a.step s.memSize s.mem).1, mem := (a.step s.memSize s.mem).2 }

/-- `n` calls of the assembler's `step()`. -/
def State.asmRun (s : State) : Nat → State
  | 0 => s
  | n + 1 => s.asmStep.asmRun n

end Sys2Proof.Machine
end

