-- ==== Sys2Proof/Machine/HostOps.lean ====
section
/-! DEFINITION. The host interface (60_exceptions.md R310, 70_reset_and_hazards.md R330 to R334): what the
host can do to the core between two steps. -/

namespace Sys2Proof.Machine

/-- What `load` reports to the host (R331, R332). -/
inductive LoadResult where
  /-- The program is in memory and the control unit in FETCH at the start address. -/
  | loaded (s : State)
  /-- Refused as a whole: AddressOutOfBounds of the first address at or above MEM_SIZE. -/
  | addressOutOfBounds (addr : Nat)
deriving DecidableEq, Repr

/-- The state after a `load` that is not refused (R331): the words written, PC at the start, FETCH
step 0, every other register, FLAG, the ALU latch, INST, OPERAND and ERR as at creation; memory
elsewhere, the queues, MEM_SIZE and the assembler unchanged. -/
def State.loaded (s : State) (words : List Word) (start : Word) : State :=
  { State.create s.memSize with
    pc := start, mem := s.mem.writeList start.toNat words,
    inq := s.inq, outq := s.outq, asm := s.asm }

/-- `load(words, start)` (R331), refused if the words do not fit (R332); a call that gives no start
takes START_ADDRESS (R7, R331). The reported address is the first address at or above MEM_SIZE from
`start` on (log 10 for no words). -/
def State.load (s : State) (words : List Word) (start : Word := Config.startAddress) : LoadResult :=
  if start.toNat + words.length ≤ s.memSize then .loaded (s.loaded words start)
  else .addressOutOfBounds (max start.toNat s.memSize)

/-- The host appends one value to the input queue (R310, R311). -/
def State.pushInput (s : State) (v : Int) : State := { s with inq := s.inq ++ [v] }

/-- The host constructs an Assembler from source lines (R310, R334). -/
def State.newAssembler (s : State) (lines : List (List Char)) : State :=
  { s with asm := some (AsmState.new lines) }

/-- What a `load` leaves of the machine: the loaded state, or the state as it was (R332). -/
def LoadResult.stateAfter (s : State) : LoadResult → State
  | .loaded t => t
  | .addressOutOfBounds _ => s

/-- The actions of the host that can change the state (R310); the output read and the snapshot
read change nothing. A `load` may leave its start to the default START_ADDRESS (R331). -/
inductive HostAction where
  | cpuStep
  | load (words : List Word) (start : Option Word := none)
  | newAssembler (lines : List (List Char))
  | asmStep
  | pushInput (v : Int)
deriving DecidableEq, Repr

/-- The state after a host action (R310). A refused load changes nothing (R332). -/
def State.act (s : State) : HostAction → Host.Outcome State Fault Refusal
  | .cpuStep => s.rtnStep
  | .load words (some start) => .next ((s.load words start).stateAfter s)
  | .load words none => .next ((s.load words).stateAfter s)
  | .newAssembler lines => .next (s.newAssembler lines)
  | .asmStep => .next s.asmStep
  | .pushInput v => .next (s.pushInput v)

/-- A run of the block: host actions one after another. -/
def State.acts (s : State) : List HostAction → Host.Outcome State Fault Refusal
  | [] => .next s
  | a :: as =>
    match s.act a with
    | .next t => t.acts as
    | .fault f => .fault f
    | .refused r => .refused r

end Sys2Proof.Machine
end

