-- ==== Sys2Proof/Safety.lean ====
section
/-! DEFINITION. The terms the claims use: the invariant of the machine, the invariant of the
assembler, boundaries and ends of runs, and the bookkeeping of a finished instruction. -/

namespace Sys2Proof.Machine

/-! ### The machine -/

/-- An instruction boundary: FETCH, step index 0 (00_scope.md R17). -/
def State.atBoundary (s : State) : Bool := decide (s.phase = .fetch ∧ s.k = 0)

/-- Blocked at IN: EXECUTE at an InPop step with INQ empty (R230, R311). -/
def State.blockedAtIn (s : State) : Prop :=
  s.phase = .execute ∧ s.inq = [] ∧
    ∃ e, s.inst = some e ∧ e.rtn[s.k]? = some .inPop

/-- A run that ended normally: HALT with no error recorded (R312). -/
def State.endedNormally (s : State) : Bool := decide (s.phase = .halt ∧ s.err = none)

/-- The control unit stands in a step that the spec has (R102 to R108). -/
def State.controlLegal (s : State) : Prop :=
  match s.phase with
  | .fetch => s.k < 4
  | .decode => s.k = 0 ∨ (s.k < 5 ∧ ∃ e, s.inst = some e ∧ e.length = .long)
  | .execute => ∃ e, s.inst = some e ∧ s.k < e.rtn.length
  | .halt => s.k = 0

/-- The invariant of the machine: MEM_SIZE in its range (R7), memory canonical and inside MEM_SIZE
(R50), the reserved FLAG bits 0 (R28), INST an entry of the catalog (R32), the control unit in a
step of the spec, and an error recorded only in HALT (R303). -/
structure State.Inv (s : State) : Prop where
  sizePos : 1 ≤ s.memSize
  sizeMax : s.memSize ≤ 65536
  memWf : s.mem.wf = true
  memWithin : s.mem.within s.memSize = true
  flagReserved : s.flagReservedZero = true
  instKnown : ∀ e, s.inst = some e → e ∈ catalog
  control : s.controlLegal
  errHalts : s.err ≠ none → s.phase = .halt

/-- The bookkeeping of a completed instruction: INST and OPERAND hold it, and the control unit is
at the next FETCH (R106 to R108). -/
def State.finished (s : State) (i : Instr) : State :=
  { s with inst := some i.entry, operand := i.operand, phase := .fetch, k := 0 }

/-- The bookkeeping of an instruction stopped by AddressOutOfBounds in EXECUTE (R301, R303). -/
def State.outOfBounds (s : State) (i : Instr) (a : Word) : State :=
  { s with inst := some i.entry, operand := i.operand, phase := .halt, k := 0,
           err := some (.addressOutOfBounds a) }

/-- The state after an ALU operation that writes ACC (R112): ACC, and the eight fields of the latch
(R30), with ACC before the step as the first operand. -/
def State.withAlu (s : State) (op : AluOp) (b : Word) : State :=
  let o := compute op s.acc b
  { s with
    acc := o.result
    alu := { a := s.acc, b := b, op := some op, result := o.result, z := o.z, n := o.n, c := o.c,
             v := o.v } }

/-- The state after a compare (R112, R115): FLAG.E, and the eight fields of the latch (R30). -/
def State.withCompare (s : State) (b : Word) : State :=
  let o := compute .compare s.acc b
  { s with
    flag := (s.flag &&& 0xFE) ||| (if s.acc = b then 1 else 0)
    alu := { a := s.acc, b := b, op := some .compare, result := o.result, z := o.z, n := o.n,
             c := o.c, v := o.v } }

/-- The state after the direct operand's word is in MDR (R111). -/
def State.withDirect (s : State) (a : Word) : State := { s with mar := a, mdr := s.word a }

/-- The next `step()` accesses memory at MAR: FETCH step 1, DECODE step 2, or a memory step of the
current instruction (R301). -/
def State.accessesMemory (s : State) : Prop :=
  (s.phase = .fetch ∧ s.k = 1) ∨ (s.phase = .decode ∧ s.k = 2) ∨
    (s.phase = .execute ∧ ∃ e r, s.inst = some e ∧ e.rtn[s.k]? = some r ∧
      (r = .memRead ∨ r = .memWrite))

/-- The opcodes with no catalog entry, as R79 lists them. -/
def illegalOpcode (op : Byte) : Bool :=
  let o := op.toNat
  decide (o = 0x00) || (decide (0x21 ≤ o) && decide (o ≤ 0x7F)) || decide (o = 0x80)
    || decide (o = 0x86) || (decide (0x8C ≤ o) && decide (o ≤ 0x8F)) || decide (0x9E ≤ o)

/-- The action is a `load` (R331). -/
def HostAction.isLoad : HostAction → Bool
  | .load _ _ => true
  | _ => false

/-! ### The assembler -/

/-- What the cursor and the line notes of an assembler say in each phase (R250, R251, R260). -/
def AsmState.cursorLegal (a : AsmState) : Prop :=
  match a.phase with
  | .trim => a.cursor ≤ a.raw.length ∧ a.symbols = [] ∧ a.info = []
  | .pass1 => a.cursor ≤ a.trimmed.length ∧ a.info.length = a.cursor
  | .pass2 => a.cursor ≤ a.trimmed.length ∧ a.info.length = a.trimmed.length
  | .done => a.cursor = 0 ∧ a.info.length = a.trimmed.length

/-- A symbol is resolved: it stands for an address (R261). -/
def SymVal.resolved : SymVal → Bool
  | .addr _ => true
  | _ => false

/-- The lines that survive TRIM, with their original numbers from 1 on (R252). -/
def keptNumbered (lines : List (List Char)) : List (Nat × List Char) :=
  ((lines.zipIdx 1).map (fun r => (r.2, trimLine r.1))).filter (fun r => !r.2.isEmpty)

/-- The raw lines that TRIM has handled: those before the cursor, all of them after TRIM (R251). -/
def AsmState.handled (a : AsmState) : List (List Char) :=
  if a.phase = .trim then a.raw.take a.cursor else a.raw

/-- The words of code of a trimmed line: the length of an instruction, none for data (R260). -/
def codeWords (line : Nat × List Char) : Nat :=
  match parseLine line.2 with
  | .ok (.instr _ e _) => e.length.words
  | _ => 0

/-- The words of data of a trimmed line: one for a declaration, none for an instruction (R260). -/
def dataWords (line : Nat × List Char) : Nat :=
  match parseLine line.2 with
  | .ok (.data _ _) => 1
  | _ => 0

/-- The end of the code of some lines that start at ASM_ORIGIN (R260, R267). -/
def codeEnd (lines : List (Nat × List Char)) : Nat := Config.asmOrigin + (lines.map codeWords).sum

/-- The number of data declarations of some lines (R260). -/
def dataCount (lines : List (Nat × List Char)) : Nat := (lines.map dataWords).sum

/-- PASS1 has ended: data stands at its addresses, after the last word of code (R261). -/
def AsmState.placed (a : AsmState) : Prop := a.phase = .pass2 ∨ a.phase = .done

/-- What `info` holds for a parsed line: an instruction at the end of the code before it, a data
declaration at the number of declarations before it (R260), counted from `dataBase`. -/
def ParsedLine.placedAfter (before : List (Nat × List Char)) (dataBase : Nat) :
    ParsedLine → LineInfo
  | .instr _ e _ => .instr (codeEnd before) e.length.words e
  | .data _ v => .data (dataBase + dataCount before) v

/-- The value a line's label gets from the line's note, during PASS1 (R260) and after it (R261). -/
def LineInfo.labelValue (placed : Bool) : LineInfo → SymVal
  | .instr addr _ _ => if placed then .addr addr else .instr addr
  | .data d _ => if placed then .addr d else .data d

/-- The symbol that a noted line defines: its label, if it has one, with the place of the line. -/
def lineSymbol (placed : Bool) (r : (Nat × List Char) × LineInfo) : Option (List Char × SymVal) :=
  match parseLine r.1.2 with
  | .ok p => p.label.map (fun l => (l, r.2.labelValue placed))
  | .error _ => none

/-- The layout of the image (R260, R261, R267): every noted line parses and its note is the place
that the lines before it give, data counted during PASS1 and from the end of all the code after it;
the two counters stand after the noted lines; the symbols are the labels of the noted lines, in
order, each with the place of its line. -/
structure AsmState.Layout (a : AsmState) : Prop where
  notes : ∀ (j n : Nat) (text : List Char) (i : LineInfo), a.trimmed[j]? = some (n, text) →
    a.info[j]? = some i → ∃ p : ParsedLine, parseLine text = .ok p ∧
      (a.placed → i = p.placedAfter (a.trimmed.take j) (codeEnd a.trimmed)) ∧
      (¬ a.placed → i = p.placedAfter (a.trimmed.take j) 0)
  codeCounter : a.instAddr = codeEnd (a.trimmed.take a.info.length)
  dataCounter : a.dataIndex = dataCount (a.trimmed.take a.info.length)
  labels : ∀ placed : Bool, (placed = true ↔ a.placed) →
    a.symbols = (a.trimmed.zip a.info).filterMap (lineSymbol placed)

/-- The invariant of the assembler: labels unique over both namespaces (R254), the cursor legal,
every symbol resolved from the end of PASS1 (R250, R261), the trimmed lines those TRIM keeps of the
lines handled so far (R252), and the layout of the image. -/
structure AsmState.Inv (a : AsmState) : Prop where
  labelsUnique : (a.symbols.map (fun r => r.1)).Nodup
  cursor : a.cursorLegal
  resolved : a.placed → a.symbols.all (fun r => r.2.resolved) = true
  source : a.trimmed = keptNumbered a.handled
  layout : a.Layout

/-- The lines that survive TRIM (R252): T of R269 is their number. -/
def keptLines (lines : List (List Char)) : List (List Char) :=
  (lines.map trimLine).filter (fun t => !t.isEmpty)

/-- The operand of the line that `disassemble` prints (R81). -/
def printedOperand (i : Instr) : LineOperand :=
  match i.entry.mode with
  | .register => .none
  | .none => .none
  | _ => .value i.operand

end Sys2Proof.Machine
end

