-- ==== Sys2Proof/Certificates/Slice0/Obligations.lean ====
section
/-! DEFINITION. The statements about the machine. A statement about an instruction gives the WHOLE next state
as an update of the state before, so its frame is every field and every memory word that the
update does not name. `D<n>` is a decision of 92_eei_decisions.md on which a clause rests. -/

open Sys2Proof Sys2Proof.Machine

/-! ### Encoding -/

/-- Decoding the words of a well-formed instruction gives it back, with every operand at every
value, and leaves the words after it (30_encoding.md sections 1 to 4; opcode numbers D1, long-form
mark D2). -/
def Obligations.DecodeEncodeRoundTrip : Prop :=
  ∀ (i : Instr) (rest : List Word), i.wf = true → decode (encode i ++ rest) = .ok (i, rest)

/-- What decoding reads, encoding writes back: every bit of the words but the reserved low byte of
a long form's first word, which is emitted as 0 (30_encoding.md R72; D2). -/
def Obligations.EncodeDecodeKeepsEveryReadBit : Prop :=
  ∀ (w : Word) (rest : List Word) (i : Instr) (r : List Word), decode (w :: rest) = .ok (i, r) →
    i.wf = true ∧
    encode i ++ r =
      (match i.entry.length with
        | .short => w :: rest
        | .long => (w &&& 0xFF00) :: rest)

/-- The length and the entry of an instruction follow from its first word alone: two words exactly
when bit 15 is 1 (30_encoding.md section 4, R78, which the spec derives from R73, R75, R106). -/
def Obligations.LengthFollowsFromTheFirstWord : Prop :=
  ∀ (w : Word) (rest : List Word) (i : Instr) (r : List Word), decode (w :: rest) = .ok (i, r) →
    (i.entry.length = .long ↔ w.getLsbD 15 = true) ∧
    r.length + i.entry.length.words = rest.length + 1 ∧
    ∀ (rest' : List Word) (i' : Instr) (r' : List Word), decode (w :: rest') = .ok (i', r') →
      i'.entry = i.entry

/-- The reserved operand bits have no effect: two long-form first words that differ in the low byte
decode alike, and the ignored byte of a register-mode or none-mode word reaches OPERAND and
nothing else (30_encoding.md section 4; D4: "Bits 7..0 are ignored by DECODE"). -/
def Obligations.ReservedBitsHaveNoEffect : Prop :=
  (∀ (w w' : Word) (rest : List Word) (x : Instr × List Word),
    opcodeField w = opcodeField w' → w.getLsbD 15 = true →
      decode (w :: rest) = .ok x → decode (w' :: rest) = .ok x) ∧
  (∀ (s : State) (n m : Word),
    ∀ f ∈ [Instr.movIx, Instr.incAcc, Instr.incIx, Instr.decAcc, Instr.decIx, Instr.input,
        Instr.output, Instr.stop],
      ∃ t : State, exec (f n) s = .next { t with operand := n } ∧
        exec (f m) s = .next { t with operand := m })

/-- A few words of the table, one per family, decode to their instructions (30_encoding.md R75, D1; the words
are those of 95_test_vectors.md), and the illegal opcodes are exactly those that R79 lists (D1). -/
def Obligations.TableWordsDecode : Prop :=
  decodeTableWord 16 0x0105 = some (.ldmS 5) ∧ decodeTableWord 16 0x0432 = some (.ldxS 50) ∧
  decodeTableWord 16 0x070A = some (.stoS 10) ∧ decodeTableWord 16 0x0909 = some (.addDirS 9) ∧
  decodeTableWord 16 0x0C00 = some (.incAcc 0) ∧ decodeTableWord 16 0x130D = some (.cmiS 13) ∧
  decodeTableWord 16 0x1504 = some (.jpnS 4) ∧ decodeTableWord 16 0x1C0F = some (.lslS 15) ∧
  decodeTableWord 16 0x1E00 = some (.input 0) ∧
  decodeTableWord 32 0x12348100 = some (.ldmL 0x1234) ∧
  decodeTableWord 32 0x012C9D00 = some (.lsrL 300) ∧ decodeTableWord 16 0x8600 = none ∧
  ∀ op : Byte, lookupEntry op = none ↔ illegalOpcode op = true

/-! ### Errors -/

/-- R300: UnknownOpcode is raised by DECODE step 0 exactly for the opcodes with no catalog entry,
moves to HALT, records the opcode and the word, and is raised by no other step. -/
def Obligations.UnknownOpcodeIsRaisedByTheLookupAlone : Prop :=
  (∀ s : State, s.phase = .decode → s.k = 0 → lookupEntry (opcodeField s.cir) = none →
    s.rtnStep = .next (s.raise (.unknownOpcode (opcodeField s.cir) s.cir))) ∧
  (∀ (s t : State) (op : Byte) (w : Word), s.rtnStep = .next t → s.err = none →
    t.err = some (.unknownOpcode op w) →
      s.phase = .decode ∧ s.k = 0 ∧ lookupEntry (opcodeField s.cir) = none ∧
        op = opcodeField s.cir ∧ w = s.cir)

/-- AddressOutOfBounds is raised by every step that accesses memory with MAR at or above
MEM_SIZE, and by no other; it records MAR; the instructions with memory steps are those listed;
with MEM_SIZE 65536 it does not occur (60_exceptions.md R301, the last part derived by the spec). -/
def Obligations.AddressOutOfBoundsIsRaisedByMemoryStepsAlone : Prop :=
  (∀ s : State, s.accessesMemory → s.memSize ≤ s.mar.toNat →
    s.rtnStep = .next (s.raise (.addressOutOfBounds s.mar))) ∧
  (∀ (s t : State) (a : Word), s.rtnStep = .next t → s.err = none →
    t.err = some (.addressOutOfBounds a) →
      s.accessesMemory ∧ s.memSize ≤ s.mar.toNat ∧ a = s.mar ∧ s.memSize ≠ 65536) ∧
  (∀ i : Instr, (RtnStep.memRead ∈ i.entry.rtn ∨ RtnStep.memWrite ∈ i.entry.rtn) ↔
    (i.entry.mnemonic ∈ [Mnemonic.ldd, .ldi, .ldx, .sto, .cmi] ∨
      (i.entry.mode = .direct ∧ i.entry.mnemonic ∈ [Mnemonic.add, .sub, .and, .or, .xor, .cmp])))

/-- The step that raises an error records it, moves to HALT with k 0, and changes no other field
(60_exceptions.md section 2; D15: "the raising step changes only ERR and the phase"). -/
def Obligations.RaisingStepChangesOnlyErrAndPhase : Prop :=
  ∀ (s t : State) (e : CpuError), s.rtnStep = .next t → s.err = none → t.err = some e →
    t = { s with err := some e, phase := .halt, k := 0 }

/-- The address of the faulting instruction is recoverable from the halted state, as R304 derives:
MAR and PC for an error in FETCH, PC − 1 for UnknownOpcode and for a missing operand word (which
is at PC = MAR), PC less the length that INST gives for an error in EXECUTE. -/
def Obligations.FaultingAddressIsRecoverable : Prop :=
  ∀ s t : State, s.atBoundary = true → s.err = none → step s = .next t → t.err ≠ none →
    (s.inBounds s.pc = false → t.mar = s.pc ∧ t.pc = s.pc) ∧
    (∀ (op : Byte) (w : Word), t.err = some (.unknownOpcode op w) → t.pc - 1 = s.pc) ∧
    (∀ e : CatalogEntry, s.inBounds s.pc = true →
      lookupEntry (opcodeField (s.word s.pc)) = some e → e.length = .long →
      s.inBounds (s.pc + 1) = false → t.pc - 1 = s.pc ∧ t.mar = t.pc) ∧
    (∀ (i : Instr) (rest : List Word), decode s.fetchWords = .ok (i, rest) →
      s.fetchInBounds i.entry.length = true →
      ∃ e : CatalogEntry, t.inst = some e ∧ e = i.entry ∧
        t.pc - BitVec.ofNat 16 e.length.words = s.pc)

/-- In HALT `step()` changes no state and returns true, and only a load leaves HALT (R101); no sequence
of host actions without a load changes a CPU register, FLAG, the ALU latch or ERR (pushes and
assembler steps: 50_assembler.md R264, the spec's decision D33, R310, R334); a load that is not
refused leaves HALT (R331). -/
def Obligations.HaltIsLeftOnlyByLoad : Prop :=
  ∀ s : State, s.phase = .halt →
    s.rtnStep = .next s ∧ s.halted = true ∧ step s = .next s ∧
    (∀ (as : List HostAction) (t : State), as.all (fun a => !a.isLoad) = true →
      s.acts as = .next t →
        t = { s with mem := t.mem, inq := t.inq, asm := t.asm }) ∧
    (∀ (ws : List Word) (start : Word) (t : State), s.load ws start = .loaded t →
      t.phase = .fetch)

/-! ### Creation, invariants, steps -/

/-- Creation: every element at the value of the "at CPU creation" column of 10_state.md R38; the
spec gives the register values as its decision D16 and the default MEM_SIZE as D13. That there is no
assembler is no element of that column: it is the model's reading of R334 (DEDUCED, log 8). -/
def Obligations.ResetIsTheCreationState : Prop :=
  let s := State.reset
  s.pc = 0 ∧ s.mar = 0 ∧ s.mdr = 0 ∧ s.cir = 0 ∧ s.acc = 0 ∧ s.ix = 0 ∧ s.flag = 0 ∧
  s.alu = { a := 0, b := 0, op := none, result := 0, z := false, n := false, c := false,
            v := false } ∧
  s.phase = .fetch ∧ s.k = 0 ∧ s.inst = none ∧ s.operand = 0 ∧ s.err = none ∧
  s.memSize = 65536 ∧ (∀ a, s.mem.read a = 0) ∧ s.inq = [] ∧ s.outq = [] ∧ s.asm = none

/-- The invariant of the machine holds at creation, with every MEM_SIZE of the range of R7 (D13). -/
def Obligations.CreationSatisfiesTheInvariant : Prop :=
  State.reset.Inv ∧ ∀ n : Nat, 1 ≤ n → n ≤ 65536 → (State.create n).Inv

/-- From every state that meets the invariant, the step of the model answers a next state that
meets it: memory stays canonical and inside MEM_SIZE, the reserved FLAG bits stay 0, the control
unit stays in a step of the spec, and nothing faults or is refused (the invariant is the model's
own; log 5). -/
def Obligations.StepKeepsTheInvariant : Prop :=
  ∀ s : State, s.Inv → ∃ t : State, step s = .next t ∧ t.Inv

/-- Every action of the host, the spec's own `step()` among them, answers a next state and keeps the
invariant (60_exceptions.md section 4; the invariant is the model's own, log 5). -/
def Obligations.HostActionsKeepTheInvariant : Prop :=
  ∀ (s : State) (a : HostAction), s.Inv → ∃ t : State, s.act a = .next t ∧ t.Inv

/-- The model's step (log 1) is a run of at most 14 calls of the spec's `step()`, which ends at an
instruction boundary, in HALT or blocked at IN. -/
def Obligations.StepIsABoundedRunOfRtnSteps : Prop :=
  ∀ s : State, s.Inv → ∃ (n : Nat) (t : State), n ≤ 14 ∧ step s = .next t ∧
    s.rtnRun n = .next t ∧ (t.atBoundary = true ∨ t.phase = .halt ∨ t.blockedAtIn)

/-- The number of `step()` calls of an instruction that raises no error and does not block is
4 + 1 + (4 if long form) + the length of its sequence, and it is not left earlier
(40_control_unit.md section 8, R122, which the spec derives from R102 to R108). -/
def Obligations.InstructionTakesItsStepCount : Prop :=
  ∀ (s t : State) (i : Instr) (rest : List Word), s.atBoundary = true →
    decode s.fetchWords = .ok (i, rest) → s.fetchInBounds i.entry.length = true →
    exec i (s.fetched i.entry.length) = .next t → s.err = none → t.err = none →
    (i.entry.mnemonic = .input → s.inq ≠ []) →
      s.rtnRun (4 + 1 + (if i.entry.length = .long then 4 else 0) + i.entry.rtn.length) = .next t ∧
      ∀ (m : Nat) (u : State), 0 < m →
        m < 4 + 1 + (if i.entry.length = .long then 4 else 0) + i.entry.rtn.length →
        s.rtnRun m = .next u → u.atBoundary = false ∧ u.phase ≠ .halt

/-- The model's step (log 1) at an instruction boundary runs the instruction that the words at PC
decode to: it is `exec` of that instruction on the state FETCH and DECODE leave, PC past the
words, the first word in CIR, the last word read in MDR and its address in MAR. -/
def Obligations.StepRunsTheDecodedInstruction : Prop :=
  ∀ (s : State) (i : Instr) (rest : List Word), s.atBoundary = true →
    decode s.fetchWords = .ok (i, rest) → s.fetchInBounds i.entry.length = true →
      step s = exec i (s.fetched i.entry.length)

/-- The first three FETCH steps: MAR takes PC, MDR takes the word at MAR or the read raises and MDR is
not written (R103), PC counts up modulo 65536 (R104). -/
def Obligations.FetchStepsFollowTheRules : Prop :=
  ∀ s : State, s.phase = .fetch →
    (s.k = 0 → s.rtnStep = .next { s with mar := s.pc, k := 1 }) ∧
    (s.k = 1 → s.mar.toNat < s.memSize →
      s.rtnStep = .next { s with mdr := s.mem.read s.mar.toNat, k := 2 }) ∧
    (s.k = 1 → s.memSize ≤ s.mar.toNat →
      s.rtnStep = .next { s with err := some (.addressOutOfBounds s.mar), phase := .halt, k := 0 }) ∧
    (s.k = 2 → s.rtnStep =
      .next { s with pc := BitVec.ofNat 16 ((s.pc.toNat + 1) % 65536), k := 3 })

/-- The last FETCH step and the DECODE steps: CIR takes the fetched word, the lookup by opcode alone
gives INST and, for a short form, the zero-extended operand; a long form reads its operand word
through MAR and MDR (40_control_unit.md R105 to R107; D1, D3, D4, D6). -/
def Obligations.DecodeStepsFollowTheRules : Prop :=
  (∀ s : State, s.phase = .fetch → s.k = 3 →
    s.rtnStep = .next { s with cir := s.mdr, phase := .decode, k := 0 }) ∧
  (∀ s : State, s.phase = .decode →
    (∀ e : CatalogEntry, s.k = 0 → e ∈ catalog → opcodeField s.cir = e.opcode →
      s.rtnStep = .next
        (match e.length with
          | .short => { s with inst := some e, operand := BitVec.ofNat 16 (s.cir.toNat % 256),
                               phase := .execute, k := 0 }
          | .long => { s with inst := some e, k := 1 })) ∧
    (s.k = 1 → s.rtnStep = .next { s with mar := s.pc, k := 2 }) ∧
    (s.k = 2 → s.mar.toNat < s.memSize →
      s.rtnStep = .next { s with mdr := s.mem.read s.mar.toNat, k := 3 }) ∧
    (s.k = 2 → s.memSize ≤ s.mar.toNat →
      s.rtnStep = .next { s with err := some (.addressOutOfBounds s.mar), phase := .halt, k := 0 }) ∧
    (s.k = 3 → s.rtnStep = .next { s with pc := s.pc + 1, k := 4 }) ∧
    (s.k = 4 → s.rtnStep = .next { s with operand := s.mdr, phase := .execute, k := 0 }))

/-! ### Load and memory -/

/-- A load that fits writes its words and starts a fresh run: PC at the start, FETCH step 0, every
other CPU element as at creation, the queues, MEM_SIZE and the assembler kept (70_reset_and_hazards.md
section 1, R331; the cleared registers and kept queues are D17). A load that gives no start starts at
START_ADDRESS = 0 (00_scope.md R7). -/
def Obligations.LoadStartsAFreshRun : Prop :=
  (∀ (s : State) (ws : List Word) (start : Word), s.mem.wf = true →
    start.toNat + ws.length ≤ s.memSize →
      ∃ t : State, s.load ws start = .loaded t ∧ s.act (.load ws (some start)) = .next t ∧
        t = { State.create s.memSize with
              pc := start, mem := t.mem, inq := s.inq, outq := s.outq, asm := s.asm } ∧
        ∀ a : Nat, t.mem.read a =
          if start.toNat ≤ a ∧ a < start.toNat + ws.length then ws.getD (a - start.toNat) 0
          else s.mem.read a) ∧
  ∀ (s : State) (ws : List Word), s.act (.load ws) = s.act (.load ws (some 0))

/-- A load that does not fit is refused as a whole, with the first address at or above MEM_SIZE
reported, and changes nothing (70_reset_and_hazards.md section 1, R332; D22). -/
def Obligations.LoadPastTheEndIsRefused : Prop :=
  ∀ (s : State) (w : Word) (ws : List Word) (start : Word),
    s.memSize < start.toNat + (w :: ws).length →
      s.act (.load (w :: ws) (some start)) = .next s ∧
      ∃ a : Nat, s.load (w :: ws) start = .addressOutOfBounds a ∧ s.memSize ≤ a ∧
        start.toNat ≤ a ∧ a < start.toNat + (w :: ws).length ∧
        ∀ b, start.toNat ≤ b → s.memSize ≤ b → a ≤ b

/-- Reading after a write of canonical memory: the written address has the value, every other
address what it had (20_memory.md R54, R59: a write changes exactly the one word addressed). -/
def Obligations.ReadAfterWrite : Prop :=
  ∀ (m : Memory) (a b : Nat) (v : Word), m.wf = true →
    (m.write a v).read b = if b = a then v else m.read b

/-- Canonical memories that read alike everywhere are equal (the model's representation, log 14). -/
def Obligations.EqualReadsMeanEqualMemory : Prop :=
  ∀ m m' : Memory, m.wf = true → m'.wf = true → (∀ a, m.read a = m'.read a) → m = m'

/-! ### What instructions leave unchanged -/

/-- The only instruction that writes memory is STO, and it writes the one word at its operand
(20_memory.md R56, which the spec derives from the RTN sequences). -/
def Obligations.OnlyStoWritesMemory : Prop :=
  ∀ (i : Instr) (s t : State), exec i s = .next t →
    (i.entry.mnemonic ≠ .sto → t.mem = s.mem) ∧
    (i.entry.mnemonic = .sto → ∀ b : Nat, b ≠ i.operand.toNat → t.mem.read b = s.mem.read b)

/-- Only CMP and CMI write FLAG, never its reserved bits, and only the ALU instructions write the
ALU latch (10_state.md R28, R30; D10, D11, D12). -/
def Obligations.OnlyComparesWriteFlag : Prop :=
  ∀ (i : Instr) (s t : State), exec i s = .next t →
    (i.entry.mnemonic ∉ [Mnemonic.cmp, .cmi] → t.flag = s.flag) ∧
    t.flag &&& 0xFE = s.flag &&& 0xFE ∧
    (i.entry.mnemonic ∉ [Mnemonic.add, .sub, .cmp, .cmi, .and, .or, .xor, .lsl, .lsr] →
      t.alu = s.alu)

/-- In EXECUTE only JMP, JPE and JPN write PC, and only with their operand (10_state.md R22). -/
def Obligations.OnlyJumpsWriteThePc : Prop :=
  ∀ (i : Instr) (s t : State), exec i s = .next t →
    (i.entry.mnemonic ∉ [Mnemonic.jmp, .jpe, .jpn] → t.pc = s.pc) ∧
    (t.pc = s.pc ∨ t.pc = i.operand)

/-- ACC is written by the instructions 10_state.md R26 lists and no other, never by CMP or CMI; IX
by LDR, MOV IX, INC IX and DEC IX and no other (R27). -/
def Obligations.AccAndIxHaveTheirWriters : Prop :=
  ∀ (i : Instr) (s t : State), exec i s = .next t →
    (i.entry.mnemonic ∉ [Mnemonic.ldm, .ldd, .ldi, .ldx, .add, .sub, .and, .or, .xor, .lsl, .lsr,
        .incAcc, .decAcc, .input] → t.acc = s.acc) ∧
    (i.entry.mnemonic ∉ [Mnemonic.ldr, .movIx, .incIx, .decIx] → t.ix = s.ix)

/-- Only IN changes INQ, and it removes at most the head; only OUT changes OUTQ, and it appends; no
instruction changes CIR in EXECUTE, MEM_SIZE or the assembler (10_state.md R25, R35). -/
def Obligations.QueuesAndCirHaveTheirWriters : Prop :=
  ∀ (i : Instr) (s t : State), exec i s = .next t →
    t.inq = (if i.entry.mnemonic = .input then s.inq.drop 1 else s.inq) ∧
    t.outq = (if i.entry.mnemonic = .output then s.outq ++ [s.acc] else s.outq) ∧
    t.cir = s.cir ∧ t.memSize = s.memSize ∧ t.asm = s.asm

/-- No instruction reads Z, N, C, V or anything else of the ALU latch: two runs that differ in the
latch alone go on to differ in the latch alone (10_state.md R31, which the spec derives from R28
and R112). -/
def Obligations.AluLatchIsNeverRead : Prop :=
  ∀ (n : Nat) (s t : State) (l : AluLatch), s.rtnRun n = .next t →
    ∃ l' : AluLatch, State.rtnRun { s with alu := l } n = .next { t with alu := l' }

/-! ### The ALU -/

/-- R113: addition, with zero, negative, carry (the unsigned sum leaves 16 bits) and overflow, both
as the bit formula and as the signed sum leaving −32768..32767. -/
def Obligations.AluAddition : Prop :=
  ∀ a b : Word, let o := compute .add a b
    o.result.toNat = (a.toNat + b.toNat) % 65536 ∧
    (o.z = true ↔ o.result = 0) ∧ o.n = o.result.getLsbD 15 ∧
    (o.c = true ↔ 65536 ≤ a.toNat + b.toNat) ∧
    (o.v = true ↔ a.getLsbD 15 = b.getLsbD 15 ∧ o.result.getLsbD 15 ≠ a.getLsbD 15) ∧
    (o.v = true ↔ a.toInt + b.toInt < -32768 ∨ 32767 < a.toInt + b.toInt)

/-- Subtraction and compare compute the difference modulo 65536, with C the unsigned borrow and V
the signed difference leaving its range; the comparison outcome is Z (40_control_unit.md R114,
R115; C = borrow is D7). -/
def Obligations.AluSubtractionAndCompare : Prop :=
  ∀ a b : Word, ∀ op ∈ [AluOp.subtract, AluOp.compare], let o := compute op a b
    (o.result.toNat : Int) = ((a.toNat : Int) - (b.toNat : Int)) % 65536 ∧
    (o.z = true ↔ o.result = 0) ∧ o.n = o.result.getLsbD 15 ∧
    (o.c = true ↔ a.toNat < b.toNat) ∧
    (o.v = true ↔ a.getLsbD 15 ≠ b.getLsbD 15 ∧ o.result.getLsbD 15 ≠ a.getLsbD 15) ∧
    (o.v = true ↔ a.toInt - b.toInt < -32768 ∨ 32767 < a.toInt - b.toInt) ∧
    comparisonTrue a b = o.z

/-- AND, OR and XOR work bit by bit over the 16 bits, with Z and N of the result and C and V false
(40_control_unit.md R116; D8). -/
def Obligations.AluLogicWorksBitByBit : Prop :=
  ∀ (a b : Word) (j : Nat), j < 16 →
    (compute .and a b).result.getLsbD j = (a.getLsbD j && b.getLsbD j) ∧
    (compute .or a b).result.getLsbD j = (a.getLsbD j || b.getLsbD j) ∧
    (compute .xor a b).result.getLsbD j = (a.getLsbD j != b.getLsbD j) ∧
    ∀ op ∈ [AluOp.and, AluOp.or, AluOp.xor], let o := compute op a b
      (o.z = true ↔ o.result = 0) ∧ o.n = o.result.getLsbD 15 ∧ o.c = false ∧ o.v = false

/-- The shifts are multiplication and division by 2^n with the whole operand as the count, 0 from a
count of 16 on, with Z and N of the result and C and V false (40_control_unit.md R117; D8, D9). -/
def Obligations.AluShiftsScaleByPowersOfTwo : Prop :=
  ∀ a n : Word,
    (compute .shiftLeft a n).result.toNat = a.toNat * 2 ^ n.toNat % 65536 ∧
    (compute .shiftRight a n).result.toNat = a.toNat / 2 ^ n.toNat ∧
    (16 ≤ n.toNat → (compute .shiftLeft a n).result = 0 ∧ (compute .shiftRight a n).result = 0) ∧
    ∀ op ∈ [AluOp.shiftLeft, AluOp.shiftRight], let o := compute op a n
      (o.z = true ↔ o.result = 0) ∧ o.n = o.result.getLsbD 15 ∧ o.c = false ∧ o.v = false

/-- R118: for every operation Z says that the result is 0 and N is its bit 15; for compare the
result is the difference; no ALU step raises an error. -/
def Obligations.FlagsCommonToEveryOperation : Prop :=
  ∀ (op : AluOp) (a b : Word),
    (compute op a b).z = decide ((compute op a b).result = 0) ∧
    (compute op a b).n = (compute op a b).result.getLsbD 15 ∧
    (compute .compare a b).result = a - b ∧
    ∀ (s : State) (src : AluSrc), ∃ t : State, RtnStep.run (.alu op src) s = .done t ∧ t.err = s.err

/-! ### Data movement -/

/-- LDM puts its operand into ACC; MAR and MDR are untouched (41_data_movement.md R150; D5). -/
def Obligations.LdmLoadsTheImmediate : Prop :=
  ∀ (s : State) (n : Word), ∀ i ∈ [Instr.ldmS n, Instr.ldmL n],
    exec i s = .next (State.finished { s with acc := n } i)

/-- LDD puts the word at its address into ACC, through MAR and MDR; an address at or above MEM_SIZE
raises with MAR alone changed (41_data_movement.md R151; D5). -/
def Obligations.LddLoadsTheDirectWord : Prop :=
  ∀ (s : State) (a : Word), ∀ i ∈ [Instr.lddS a, Instr.lddL a],
    (a.toNat < s.memSize →
      exec i s = .next (State.finished { s with mar := a, mdr := s.word a, acc := s.word a } i)) ∧
    (s.memSize ≤ a.toNat → exec i s = .next (State.outOfBounds { s with mar := a } i a))

/-- LDI puts the word at the address held at its address into ACC; the pointer read and the data
read each check the bound, the first failure stops it (41_data_movement.md R152; D5). -/
def Obligations.LdiLoadsThroughThePointer : Prop :=
  ∀ (s : State) (a : Word), ∀ i ∈ [Instr.ldiS a, Instr.ldiL a],
    (a.toNat < s.memSize → (s.word a).toNat < s.memSize →
      exec i s = .next (State.finished
        { s with mar := s.word a, mdr := s.word (s.word a), acc := s.word (s.word a) } i)) ∧
    (s.memSize ≤ a.toNat → exec i s = .next (State.outOfBounds { s with mar := a } i a)) ∧
    (a.toNat < s.memSize → s.memSize ≤ (s.word a).toNat →
      exec i s = .next (State.outOfBounds { s with mar := s.word a, mdr := s.word a } i (s.word a)))

/-- LDX puts the word at wrap16(operand + IX) into ACC; IX is read, not written; the sum wraps before
the bounds check (41_data_movement.md R153; D5, D14). -/
def Obligations.LdxLoadsTheIndexedWord : Prop :=
  ∀ (s : State) (n a : Word), a = BitVec.ofNat 16 ((n.toNat + s.ix.toNat) % 65536) →
    ∀ i ∈ [Instr.ldxS n, Instr.ldxL n],
      (a.toNat < s.memSize →
        exec i s = .next (State.finished { s with mar := a, mdr := s.word a, acc := s.word a } i)) ∧
      (s.memSize ≤ a.toNat → exec i s = .next (State.outOfBounds { s with mar := a } i a))

/-- LDR puts its operand into IX, MOV IX copies ACC into IX (41_data_movement.md R154, R155; D5). -/
def Obligations.LdrAndMovIxWriteTheIndex : Prop :=
  ∀ (s : State) (n : Word),
    (∀ i ∈ [Instr.ldrS n, Instr.ldrL n], exec i s = .next (State.finished { s with ix := n } i)) ∧
    exec (.movIx n) s = .next (State.finished { s with ix := s.acc } (.movIx n))

/-- STO stores ACC at its operand's address, through MAR and MDR: that word reads as ACC afterwards,
every other as before; an address at or above MEM_SIZE raises with memory unchanged and ACC in
MDR (41_data_movement.md R156; D5). -/
def Obligations.StoStoresTheAccumulator : Prop :=
  ∀ (s : State) (a : Word), ∀ i ∈ [Instr.stoS a, Instr.stoL a],
    (a.toNat < s.memSize → ∃ m : Memory,
      exec i s = .next (State.finished { s with mar := a, mdr := s.acc, mem := m } i) ∧
      (s.mem.wf = true → m.read a.toNat = s.acc) ∧
      ∀ b : Nat, b ≠ a.toNat → m.read b = s.mem.read b) ∧
    (s.memSize ≤ a.toNat →
      exec i s = .next (State.outOfBounds { s with mar := a, mdr := s.acc } i a))

/-! ### Arithmetic -/

/-- ADD adds its operand or the word at its address to ACC through the ALU (42_arithmetic.md R170,
R171; D5); the flags are those of `AluAddition`. -/
def Obligations.AddAddsTheOperand : Prop :=
  ∀ (s : State) (n : Word),
    (∀ i ∈ [Instr.addImmS n, Instr.addImmL n],
      exec i s = .next (State.finished (s.withAlu .add n) i)) ∧
    (∀ i ∈ [Instr.addDirS n, Instr.addDirL n],
      (n.toNat < s.memSize →
        exec i s = .next (State.finished ((s.withDirect n).withAlu .add (s.word n)) i)) ∧
      (s.memSize ≤ n.toNat → exec i s = .next (State.outOfBounds { s with mar := n } i n)))

/-- SUB subtracts its operand or the word at its address from ACC through the ALU (42_arithmetic.md
R172, R173; D5, D7); the flags are those of `AluSubtractionAndCompare`. -/
def Obligations.SubSubtractsTheOperand : Prop :=
  ∀ (s : State) (n : Word),
    (∀ i ∈ [Instr.subImmS n, Instr.subImmL n],
      exec i s = .next (State.finished (s.withAlu .subtract n) i)) ∧
    (∀ i ∈ [Instr.subDirS n, Instr.subDirL n],
      (n.toNat < s.memSize →
        exec i s = .next (State.finished ((s.withDirect n).withAlu .subtract (s.word n)) i)) ∧
      (s.memSize ≤ n.toNat → exec i s = .next (State.outOfBounds { s with mar := n } i n)))

/-- INC and DEC count ACC or IX up or down modulo 65536 and touch neither FLAG nor the ALU latch
(42_arithmetic.md R174 to R177; D12). -/
def Obligations.IncAndDecCountModulo : Prop :=
  ∀ (s : State) (n : Word),
    exec (.incAcc n) s =
      .next (State.finished { s with acc := wrap16 ((s.acc.toNat : Int) + 1) } (.incAcc n)) ∧
    exec (.incIx n) s =
      .next (State.finished { s with ix := wrap16 ((s.ix.toNat : Int) + 1) } (.incIx n)) ∧
    exec (.decAcc n) s =
      .next (State.finished { s with acc := wrap16 ((s.acc.toNat : Int) - 1) } (.decAcc n)) ∧
    exec (.decIx n) s =
      .next (State.finished { s with ix := wrap16 ((s.ix.toNat : Int) - 1) } (.decIx n))

/-! ### Compare and branch -/

/-- CMP sets FLAG.E to whether ACC equals its operand or the word at its address, records the
difference in the ALU latch and does not write ACC (43_compare_branch.md R191, R192; D5, D11, D21). -/
def Obligations.CmpComparesTheOperand : Prop :=
  ∀ (s : State) (n : Word),
    (∀ i ∈ [Instr.cmpImmS n, Instr.cmpImmL n],
      exec i s = .next (State.finished (s.withCompare n) i)) ∧
    (∀ i ∈ [Instr.cmpDirS n, Instr.cmpDirL n],
      (n.toNat < s.memSize →
        exec i s = .next (State.finished ((s.withDirect n).withCompare (s.word n)) i)) ∧
      (s.memSize ≤ n.toNat → exec i s = .next (State.outOfBounds { s with mar := n } i n)))

/-- CMI compares ACC with the word at the address held at its address (43_compare_branch.md R193;
D5, D11, D21). -/
def Obligations.CmiComparesThroughThePointer : Prop :=
  ∀ (s : State) (a : Word), ∀ i ∈ [Instr.cmiS a, Instr.cmiL a],
    (a.toNat < s.memSize → (s.word a).toNat < s.memSize →
      exec i s = .next (State.finished
        ((s.withDirect (s.word a)).withCompare (s.word (s.word a))) i)) ∧
    (s.memSize ≤ a.toNat → exec i s = .next (State.outOfBounds { s with mar := a } i a)) ∧
    (a.toNat < s.memSize → s.memSize ≤ (s.word a).toNat →
      exec i s = .next (State.outOfBounds { s with mar := s.word a, mdr := s.word a } i (s.word a)))

/-- JMP writes its operand to PC, JPE exactly when FLAG.E is 1, JPN exactly when it is 0; none checks
the target, and nothing else changes but the bookkeeping (43_compare_branch.md R190, R194, R195; D35,
JPN from general knowledge). -/
def Obligations.JumpsWriteThePc : Prop :=
  ∀ (s : State) (a : Word),
    (∀ i ∈ [Instr.jmpS a, Instr.jmpL a],
      exec i s = .next (State.finished { s with pc := a } i)) ∧
    (∀ i ∈ [Instr.jpeS a, Instr.jpeL a], exec i s = .next (State.finished
      { s with pc := if s.flag.getLsbD 0 = true then a else s.pc } i)) ∧
    (∀ i ∈ [Instr.jpnS a, Instr.jpnL a], exec i s = .next (State.finished
      { s with pc := if s.flag.getLsbD 0 = true then s.pc else a } i))

/-! ### Logic and shift -/

/-- AND, OR and XOR with an immediate operand go through the ALU (44_logic_shift.md R210, R212,
R214; D5, D8). -/
def Obligations.LogicImmediatesUseTheAlu : Prop :=
  ∀ (s : State) (n : Word),
    (∀ i ∈ [Instr.andImmS n, Instr.andImmL n],
      exec i s = .next (State.finished (s.withAlu .and n) i)) ∧
    (∀ i ∈ [Instr.orImmS n, Instr.orImmL n],
      exec i s = .next (State.finished (s.withAlu .or n) i)) ∧
    (∀ i ∈ [Instr.xorImmS n, Instr.xorImmL n],
      exec i s = .next (State.finished (s.withAlu .xor n) i))

/-- AND, OR and XOR with a direct operand read the word at their address and go through the ALU; an
address at or above MEM_SIZE raises (44_logic_shift.md R211, R213, R215; D5, D8). -/
def Obligations.LogicDirectsUseTheAlu : Prop :=
  ∀ (s : State) (a : Word),
    (a.toNat < s.memSize →
      (∀ i ∈ [Instr.andDirS a, Instr.andDirL a],
        exec i s = .next (State.finished ((s.withDirect a).withAlu .and (s.word a)) i)) ∧
      (∀ i ∈ [Instr.orDirS a, Instr.orDirL a],
        exec i s = .next (State.finished ((s.withDirect a).withAlu .or (s.word a)) i)) ∧
      (∀ i ∈ [Instr.xorDirS a, Instr.xorDirL a],
        exec i s = .next (State.finished ((s.withDirect a).withAlu .xor (s.word a)) i))) ∧
    (s.memSize ≤ a.toNat →
      ∀ i ∈ [Instr.andDirS a, Instr.andDirL a, Instr.orDirS a, Instr.orDirL a, Instr.xorDirS a,
          Instr.xorDirL a],
        exec i s = .next (State.outOfBounds { s with mar := a } i a))

/-- LSL and LSR shift ACC by the whole operand through the ALU (44_logic_shift.md R216, R217; D8, D9). -/
def Obligations.ShiftsUseTheAlu : Prop :=
  ∀ (s : State) (n : Word),
    (∀ i ∈ [Instr.lslS n, Instr.lslL n],
      exec i s = .next (State.finished (s.withAlu .shiftLeft n) i)) ∧
    (∀ i ∈ [Instr.lsrS n, Instr.lsrL n],
      exec i s = .next (State.finished (s.withAlu .shiftRight n) i))

/-! ### Input, output, system -/

/-- IN takes the head of INQ, wrapped to 16 bits, into ACC; with an empty INQ it stands in EXECUTE
at its first step and changes nothing else (45_io_system.md R230, R231; D18). -/
def Obligations.InTakesTheHeadOfTheQueue : Prop :=
  (∀ (s : State) (n : Word) (v : Int) (q : List Int), s.inq = v :: q →
    exec (.input n) s = .next (State.finished { s with acc := wrap16 v, inq := q } (.input n))) ∧
  (∀ (s : State) (n : Word), s.inq = [] →
    exec (.input n) s = .next { s with inst := some (Instr.input n).entry, operand := n,
                                       phase := .execute, k := 0 }) ∧
  (∀ v : Int, ((wrap16 v).toNat : Int) = v % 65536)

/-- OUT appends the whole of ACC to OUTQ and changes nothing else (45_io_system.md R232; D18). -/
def Obligations.OutAppendsTheAccumulator : Prop :=
  ∀ (s : State) (n : Word),
    exec (.output n) s = .next (State.finished { s with outq := s.outq ++ [s.acc] } (.output n))

/-- END moves to HALT with no register transfer and no error recorded by it; from a state with no
error the run has ended normally (45_io_system.md R233, 60_exceptions.md R312). -/
def Obligations.EndHaltsTheMachine : Prop :=
  ∀ (s : State) (n : Word),
    exec (.stop n) s = .next { s with inst := some (Instr.stop n).entry, operand := n,
                                      phase := .halt, k := 0 } ∧
    (s.err = none → ∀ t : State, exec (.stop n) s = .next t → t.endedNormally = true)

/-- Blocked at IN, the core cannot go on by itself: every number of steps leaves the state as it
is; after a host push the next step takes the value (60_exceptions.md R311, which the spec derives
from R230 and R310). -/
def Obligations.BlockedInWaitsForAPush : Prop :=
  ∀ s : State, s.blockedAtIn →
    (∀ n : Nat, s.rtnRun n = .next s) ∧ step s = .next s ∧
    ∀ v : Int, ∃ t : State, (s.pushInput v).rtnStep = .next t ∧ t.acc = wrap16 v ∧ t.inq = []

/-! ### The assembler -/

/-- The assembler's step writes memory and its own state and no CPU register, flag, latch, queue or
control-unit field (50_assembler.md R264; D33). -/
def Obligations.AssemblerWritesNoCpuState : Prop :=
  ∀ (s : State) (n : Nat),
    s.asmRun n = { s with mem := (s.asmRun n).mem, asm := (s.asmRun n).asm }

/-- R266: the step that fails changes nothing but `err`, which names the original number of the line
at the cursor, writes no word and stays in its phase; every later step changes nothing. -/
def Obligations.FailingAssemblyChangesOnlyErr : Prop :=
  (∀ (a b : AsmState) (size : Nat) (m m' : Memory) (e : AsmError), a.err = none →
    a.step size m = (b, m') → b.err = some e →
      b = { a with err := some e } ∧ m' = m ∧
        ∃ text, a.trimmed[a.cursor]? = some (e.line, text)) ∧
  (∀ (s : State) (a : AsmState) (n : Nat), s.asm = some a → a.err ≠ none → s.asmRun n = s)

/-- A source of R lines of which T survive TRIM, assembled without error, takes exactly 2T + R + 3
steps to DONE (50_assembler.md R269, which the spec derives from R251, R252, R260 to R263). -/
def Obligations.AssemblerStepCount : Prop :=
  ∀ (s : State) (lines : List (List Char)) (a : AsmState),
    ((s.newAssembler lines).asmRun (2 * (keptLines lines).length + lines.length + 3)).asm = some a →
    a.err = none →
      a.phase = .done ∧
      ∀ (n : Nat) (b : AsmState), n < 2 * (keptLines lines).length + lines.length + 3 →
        ((s.newAssembler lines).asmRun n).asm = some b → b.phase ≠ .done

/-- The source text of an instruction, as the catalog disassembles it, parses back to its entry and
its operand, for every addressing mode and every operand, in the form the assembler chooses
(30_encoding.md R81; D24 to D29). -/
def Obligations.DisassemblyParsesBack : Prop :=
  ∀ i : Instr, i.canonical = true →
    parseLine (disassemble i) = .ok (.instr none i.entry (printedOperand i))

/-- The assembler's invariant: labels are unique over both namespaces, the cursor and the notes
agree with the phase, every symbol is an address from the end of PASS1, the trimmed lines are those
TRIM keeps, with their numbers; and the layout: a line's
instruction stands after the words of the instructions before it, a data word stands after all the code
and the data before it, the counters stand after the lines noted so far, and the symbols are the
labels of these lines, each with the place of its line. A new assembler has it and every step keeps
it. A PASS1 step notes one more line when the line parses and its label is new, reports the line's
error or DuplicateLabel when not, and ends the pass after the last line (50_assembler.md R250, R252,
R254, R260, R261, R267; D30, D32, D33; the detail of a parse error is free, log 7). -/
def Obligations.AssemblerKeepsItsInvariant : Prop :=
  (∀ lines : List (List Char), (AsmState.new lines).Inv) ∧
  (∀ (a : AsmState) (size : Nat) (m : Memory), a.Inv → (a.step size m).1.Inv) ∧
  ∀ (a : AsmState) (size : Nat) (m : Memory), a.phase = .pass1 → a.err = none →
    (∀ (n : Nat) (text : List Char), a.trimmed[a.cursor]? = some (n, text) →
      (∀ p : ParsedLine, parseLine text = .ok p →
        ((∀ l, p.label = some l → ∀ r ∈ a.symbols, r.1 ≠ l) →
          ∃ b : AsmState, a.step size m = (b, m) ∧ b.phase = .pass1 ∧ b.err = none ∧ b.raw = a.raw ∧
            b.trimmed = a.trimmed ∧ b.cursor = a.cursor + 1 ∧
            b.info.length = a.info.length + 1) ∧
        (∀ l, p.label = some l → (∃ r ∈ a.symbols, r.1 = l) →
          a.step size m = ({ a with err := some ⟨.duplicateLabel, n, .text l⟩ }, m))) ∧
      (∀ kind : AsmErrorKind, parseLine text = .error kind →
        ∃ d : AsmDetail, a.step size m = ({ a with err := some ⟨kind, n, d⟩ }, m))) ∧
    (a.trimmed[a.cursor]? = none →
      ∃ b : AsmState, a.step size m = (b, m) ∧ b.phase = .pass2 ∧ b.cursor = 0 ∧ b.err = none ∧
        b.raw = a.raw ∧ b.trimmed = a.trimmed ∧ b.info.length = a.info.length)

/-- Assembling is a function of the source text: from two machines of the same MEM_SIZE the
assembler goes through the same states, and a word that was equal in both memories stays equal
(50_assembler.md R268). -/
def Obligations.AssemblyDependsOnTheSourceAlone : Prop :=
  ∀ (s s' : State) (lines : List (List Char)) (n : Nat), s.memSize = s'.memSize →
    s.mem.wf = true → s'.mem.wf = true →
      ((s.newAssembler lines).asmRun n).asm = ((s'.newAssembler lines).asmRun n).asm ∧
      ∀ a : Nat, s.mem.read a = s'.mem.read a →
        ((s.newAssembler lines).asmRun n).mem.read a = ((s'.newAssembler lines).asmRun n).mem.read a

/-- PASS2 (50_assembler.md R262, R263, 30_encoding.md R71, R72; D1, D2, D30, D32). The words of an instruction line are
the encoding of the instruction. A step on a line whose operand resolves and whose words fit writes
exactly these words at the line's address (one word for data) and moves the cursor; one whose words do
not fit, whose symbol is missing or whose short symbol is above 255 fails by name and writes nothing;
after the last line the phase is DONE. -/
def Obligations.AssemblerEmitsTheEncoding : Prop :=
  (∀ i : Instr, i.wf = true →
    lineWords i.entry i.entry.length.words i.operand.toNat = encode i) ∧
  ∀ (a : AsmState) (size : Nat) (m : Memory), a.phase = .pass2 → a.err = none → m.wf = true →
    (a.symbols.map (fun r => r.1)).Nodup →
    (∀ (n addr : Nat) (text : List Char) (label : Option (List Char)) (e : CatalogEntry)
        (o : LineOperand), a.trimmed[a.cursor]? = some (n, text) →
      a.info[a.cursor]? = some (.instr addr e.length.words e) →
      parseLine text = .ok (.instr label e o) →
      (∀ value : Nat,
        (o = .none ∧ value = 0 ∨ (∃ w, o = .value w ∧ value = w.toNat) ∨
          ∃ t, o = .symbol t ∧ (t, SymVal.addr value) ∈ a.symbols ∧
            (e.length = .short → value ≤ 255)) →
        ∀ ws : List Word,
          (match e.length with
            | .short => ws = [BitVec.ofNat 16 (e.opcode.toNat * 256 + value)]
            | .long => ws = [BitVec.ofNat 16 (e.opcode.toNat * 256), BitVec.ofNat 16 value]) →
          (addr + ws.length - 1 < size → ∃ m' : Memory,
            a.step size m = ({ a with cursor := a.cursor + 1 }, m') ∧
            ∀ b : Nat, m'.read b =
              if addr ≤ b ∧ b < addr + ws.length then ws.getD (b - addr) 0 else m.read b) ∧
          (size ≤ addr + ws.length - 1 →
            a.step size m = ({ a with err := some ⟨.addressOutOfBounds, n, .address addr⟩ }, m))) ∧
      (∀ t, o = .symbol t → (∀ r ∈ a.symbols, r.1 ≠ t) →
        a.step size m = ({ a with err := some ⟨.undefinedLabel, n, .text t⟩ }, m)) ∧
      (∀ t value, o = .symbol t → (t, SymVal.addr value) ∈ a.symbols → e.length = .short →
        255 < value →
          a.step size m = ({ a with err := some ⟨.operandOutOfRange, n, .text t⟩ }, m))) ∧
    (∀ (n addr : Nat) (text : List Char) (v : Word), a.trimmed[a.cursor]? = some (n, text) →
      a.info[a.cursor]? = some (.data addr v) →
        (addr < size → ∃ m' : Memory,
          a.step size m = ({ a with cursor := a.cursor + 1 }, m') ∧
          ∀ b : Nat, m'.read b = if b = addr then v else m.read b) ∧
        (size ≤ addr →
          a.step size m = ({ a with err := some ⟨.addressOutOfBounds, n, .address addr⟩ }, m))) ∧
    (a.trimmed[a.cursor]? = none → a.step size m = ({ a with phase := .done, cursor := 0 }, m))
end

