-- ==== Sys2Proof/Laws/Memory.lean ====
section
/-! SUPPORT. Every memory operation keeps the canonical form, and the memory of the reset state has it. -/

namespace Sys2Proof.Machine

theorem Memory.wfFrom_cons {lo a : Nat} {v : Word} {m : Memory} :
    Memory.wfFrom lo ((a, v) :: m) = true ↔ lo ≤ a ∧ v ≠ 0#16 ∧ Memory.wfFrom (a + 1) m = true := by
  simp [Memory.wfFrom, and_assoc]

/-- A lower bound may be lowered. -/
theorem Memory.wfFrom_mono {lo lo' : Nat} {m : Memory} (h : lo' ≤ lo)
    (hm : Memory.wfFrom lo m = true) : Memory.wfFrom lo' m = true := by
  cases m with
  | nil => rfl
  | cons c m =>
    obtain ⟨ha, hv, hr⟩ := Memory.wfFrom_cons.mp hm
    exact Memory.wfFrom_cons.mpr ⟨by omega, hv, hr⟩

theorem Memory.wfFrom_write {lo : Nat} {m : Memory} {a : Nat} {v : Word}
    (hm : Memory.wfFrom lo m = true) (ha : lo ≤ a) : Memory.wfFrom lo (m.write a v) = true := by
  induction m generalizing lo with
  | nil =>
    rw [Memory.write]
    split
    · exact hm
    · next hv => exact Memory.wfFrom_cons.mpr ⟨ha, hv, rfl⟩
  | cons c m ih =>
    obtain ⟨b, x⟩ := c
    obtain ⟨hb, hx, hr⟩ := Memory.wfFrom_cons.mp hm
    rw [Memory.write]
    split
    · split
      · exact hm
      · next hab hv => exact Memory.wfFrom_cons.mpr ⟨ha, hv, Memory.wfFrom_cons.mpr ⟨hab, hx, hr⟩⟩
    · split
      · split
        · exact Memory.wfFrom_mono (by omega) hr
        · next hab hv => exact Memory.wfFrom_cons.mpr ⟨ha, hv, by rw [hab]; exact hr⟩
      · exact Memory.wfFrom_cons.mpr ⟨hb, hx, ih hr (by omega)⟩

/-- A write keeps the canonical form. -/
theorem Memory.write_wf {m : Memory} (a : Nat) (v : Word) (hm : m.wf = true) :
    (m.write a v).wf = true :=
  Memory.wfFrom_write hm (Nat.zero_le a)

/-- Writing several words keeps the canonical form. -/
theorem Memory.writeList_wf {m : Memory} (a : Nat) (ws : List Word) (hm : m.wf = true) :
    (m.writeList a ws).wf = true := by
  induction ws generalizing m a with
  | nil => exact hm
  | cons w ws ih => exact ih (a + 1) (Memory.write_wf a w hm)

/-- Placing an instruction at PC keeps the canonical form. -/
theorem State.placeAtPc_wf (s : State) (ws : List Word) (hm : s.mem.wf = true) :
    (s.placeAtPc ws).wf = true := by
  suffices h : ∀ (m : Memory) (a : Word), m.wf = true → (State.placeAtPc.go s m a ws).wf = true from
    h s.mem s.pc hm
  induction ws with
  | nil => intro m a h; exact h
  | cons w ws ih =>
    intro m a h
    rw [State.placeAtPc.go]
    split
    · exact ih _ _ (Memory.write_wf _ _ h)
    · exact ih _ _ h

/-- A write inside MEM_SIZE leaves every listed address inside it. -/
theorem Memory.within_write {n : Nat} {m : Memory} {a : Nat} {v : Word}
    (hm : m.within n = true) (ha : a < n) : (m.write a v).within n = true := by
  induction m with
  | nil =>
    rw [Memory.write]
    split
    · exact hm
    · simpa [Memory.within] using ha
  | cons c m ih =>
    obtain ⟨b, x⟩ := c
    have hb : b < n ∧ Memory.within n m = true := by simpa [Memory.within] using hm
    rw [Memory.write]
    split
    · split
      · exact hm
      · simpa [Memory.within, ha] using hb
    · split
      · split
        · exact hb.2
        · simpa [Memory.within, ha] using hb.2
      · have := ih hb.2
        simp only [Memory.within, List.all_cons, Bool.and_eq_true, decide_eq_true_eq] at this ⊢
        exact ⟨hb.1, this⟩

theorem reset_memory_wf : State.reset.mem.wf = true := rfl

end Sys2Proof.Machine
end

