-- ==== Sys2Proof/Laws/State.lean ====
section
/-! SUPPORT. One lemma per field per update of State, each true by rfl, so that no later proof unfolds a
record update. -/

namespace Sys2Proof.Machine

variable (s : State)

/-! `State.raise` -/

@[simp] theorem State.raise_pc (e : CpuError) : (s.raise e).pc = s.pc := rfl

@[simp] theorem State.raise_mar (e : CpuError) : (s.raise e).mar = s.mar := rfl

@[simp] theorem State.raise_mdr (e : CpuError) : (s.raise e).mdr = s.mdr := rfl

@[simp] theorem State.raise_cir (e : CpuError) : (s.raise e).cir = s.cir := rfl

@[simp] theorem State.raise_acc (e : CpuError) : (s.raise e).acc = s.acc := rfl

@[simp] theorem State.raise_ix (e : CpuError) : (s.raise e).ix = s.ix := rfl

@[simp] theorem State.raise_flag (e : CpuError) : (s.raise e).flag = s.flag := rfl

@[simp] theorem State.raise_alu (e : CpuError) : (s.raise e).alu = s.alu := rfl

@[simp] theorem State.raise_phase (e : CpuError) : (s.raise e).phase = .halt := rfl

@[simp] theorem State.raise_k (e : CpuError) : (s.raise e).k = 0 := rfl

@[simp] theorem State.raise_inst (e : CpuError) : (s.raise e).inst = s.inst := rfl

@[simp] theorem State.raise_operand (e : CpuError) : (s.raise e).operand = s.operand := rfl

@[simp] theorem State.raise_err (e : CpuError) : (s.raise e).err = some e := rfl

@[simp] theorem State.raise_memSize (e : CpuError) : (s.raise e).memSize = s.memSize := rfl

@[simp] theorem State.raise_mem (e : CpuError) : (s.raise e).mem = s.mem := rfl

@[simp] theorem State.raise_inq (e : CpuError) : (s.raise e).inq = s.inq := rfl

@[simp] theorem State.raise_outq (e : CpuError) : (s.raise e).outq = s.outq := rfl

@[simp] theorem State.raise_asm (e : CpuError) : (s.raise e).asm = s.asm := rfl

/-! `State.latch` -/

@[simp] theorem State.latch_pc (i : Instr) : (s.latch i).pc = s.pc := rfl

@[simp] theorem State.latch_mar (i : Instr) : (s.latch i).mar = s.mar := rfl

@[simp] theorem State.latch_mdr (i : Instr) : (s.latch i).mdr = s.mdr := rfl

@[simp] theorem State.latch_cir (i : Instr) : (s.latch i).cir = s.cir := rfl

@[simp] theorem State.latch_acc (i : Instr) : (s.latch i).acc = s.acc := rfl

@[simp] theorem State.latch_ix (i : Instr) : (s.latch i).ix = s.ix := rfl

@[simp] theorem State.latch_flag (i : Instr) : (s.latch i).flag = s.flag := rfl

@[simp] theorem State.latch_alu (i : Instr) : (s.latch i).alu = s.alu := rfl

@[simp] theorem State.latch_phase (i : Instr) : (s.latch i).phase = .execute := rfl

@[simp] theorem State.latch_k (i : Instr) : (s.latch i).k = 0 := rfl

@[simp] theorem State.latch_inst (i : Instr) : (s.latch i).inst = some i.entry := rfl

@[simp] theorem State.latch_operand (i : Instr) : (s.latch i).operand = i.operand := rfl

@[simp] theorem State.latch_err (i : Instr) : (s.latch i).err = s.err := rfl

@[simp] theorem State.latch_memSize (i : Instr) : (s.latch i).memSize = s.memSize := rfl

@[simp] theorem State.latch_mem (i : Instr) : (s.latch i).mem = s.mem := rfl

@[simp] theorem State.latch_inq (i : Instr) : (s.latch i).inq = s.inq := rfl

@[simp] theorem State.latch_outq (i : Instr) : (s.latch i).outq = s.outq := rfl

@[simp] theorem State.latch_asm (i : Instr) : (s.latch i).asm = s.asm := rfl

/-! `State.nextStep` -/

@[simp] theorem State.nextStep_pc : (s.nextStep).pc = s.pc := rfl

@[simp] theorem State.nextStep_mar : (s.nextStep).mar = s.mar := rfl

@[simp] theorem State.nextStep_mdr : (s.nextStep).mdr = s.mdr := rfl

@[simp] theorem State.nextStep_cir : (s.nextStep).cir = s.cir := rfl

@[simp] theorem State.nextStep_acc : (s.nextStep).acc = s.acc := rfl

@[simp] theorem State.nextStep_ix : (s.nextStep).ix = s.ix := rfl

@[simp] theorem State.nextStep_flag : (s.nextStep).flag = s.flag := rfl

@[simp] theorem State.nextStep_alu : (s.nextStep).alu = s.alu := rfl

@[simp] theorem State.nextStep_phase : (s.nextStep).phase = s.phase := rfl

@[simp] theorem State.nextStep_k : (s.nextStep).k = s.k + 1 := rfl

@[simp] theorem State.nextStep_inst : (s.nextStep).inst = s.inst := rfl

@[simp] theorem State.nextStep_operand : (s.nextStep).operand = s.operand := rfl

@[simp] theorem State.nextStep_err : (s.nextStep).err = s.err := rfl

@[simp] theorem State.nextStep_memSize : (s.nextStep).memSize = s.memSize := rfl

@[simp] theorem State.nextStep_mem : (s.nextStep).mem = s.mem := rfl

@[simp] theorem State.nextStep_inq : (s.nextStep).inq = s.inq := rfl

@[simp] theorem State.nextStep_outq : (s.nextStep).outq = s.outq := rfl

@[simp] theorem State.nextStep_asm : (s.nextStep).asm = s.asm := rfl

/-! `State.leaveExecute` -/

@[simp] theorem State.leaveExecute_pc (e : CatalogEntry) : (s.leaveExecute e).pc = s.pc := rfl

@[simp] theorem State.leaveExecute_mar (e : CatalogEntry) : (s.leaveExecute e).mar = s.mar := rfl

@[simp] theorem State.leaveExecute_mdr (e : CatalogEntry) : (s.leaveExecute e).mdr = s.mdr := rfl

@[simp] theorem State.leaveExecute_cir (e : CatalogEntry) : (s.leaveExecute e).cir = s.cir := rfl

@[simp] theorem State.leaveExecute_acc (e : CatalogEntry) : (s.leaveExecute e).acc = s.acc := rfl

@[simp] theorem State.leaveExecute_ix (e : CatalogEntry) : (s.leaveExecute e).ix = s.ix := rfl

@[simp] theorem State.leaveExecute_flag (e : CatalogEntry) : (s.leaveExecute e).flag = s.flag := rfl

@[simp] theorem State.leaveExecute_alu (e : CatalogEntry) : (s.leaveExecute e).alu = s.alu := rfl

@[simp] theorem State.leaveExecute_phase (e : CatalogEntry) : (s.leaveExecute e).phase = (if e.mnemonic = .stop then .halt else .fetch) := rfl

@[simp] theorem State.leaveExecute_k (e : CatalogEntry) : (s.leaveExecute e).k = 0 := rfl

@[simp] theorem State.leaveExecute_inst (e : CatalogEntry) : (s.leaveExecute e).inst = s.inst := rfl

@[simp] theorem State.leaveExecute_operand (e : CatalogEntry) : (s.leaveExecute e).operand = s.operand := rfl

@[simp] theorem State.leaveExecute_err (e : CatalogEntry) : (s.leaveExecute e).err = s.err := rfl

@[simp] theorem State.leaveExecute_memSize (e : CatalogEntry) : (s.leaveExecute e).memSize = s.memSize := rfl

@[simp] theorem State.leaveExecute_mem (e : CatalogEntry) : (s.leaveExecute e).mem = s.mem := rfl

@[simp] theorem State.leaveExecute_inq (e : CatalogEntry) : (s.leaveExecute e).inq = s.inq := rfl

@[simp] theorem State.leaveExecute_outq (e : CatalogEntry) : (s.leaveExecute e).outq = s.outq := rfl

@[simp] theorem State.leaveExecute_asm (e : CatalogEntry) : (s.leaveExecute e).asm = s.asm := rfl

/-! `State.setFlagE` -/

@[simp] theorem State.setFlagE_pc (e : Bool) : (s.setFlagE e).pc = s.pc := rfl

@[simp] theorem State.setFlagE_mar (e : Bool) : (s.setFlagE e).mar = s.mar := rfl

@[simp] theorem State.setFlagE_mdr (e : Bool) : (s.setFlagE e).mdr = s.mdr := rfl

@[simp] theorem State.setFlagE_cir (e : Bool) : (s.setFlagE e).cir = s.cir := rfl

@[simp] theorem State.setFlagE_acc (e : Bool) : (s.setFlagE e).acc = s.acc := rfl

@[simp] theorem State.setFlagE_ix (e : Bool) : (s.setFlagE e).ix = s.ix := rfl

@[simp] theorem State.setFlagE_flag (e : Bool) : (s.setFlagE e).flag = (s.flag &&& 0xFE) ||| (if e then 1 else 0) := rfl

@[simp] theorem State.setFlagE_alu (e : Bool) : (s.setFlagE e).alu = s.alu := rfl

@[simp] theorem State.setFlagE_phase (e : Bool) : (s.setFlagE e).phase = s.phase := rfl

@[simp] theorem State.setFlagE_k (e : Bool) : (s.setFlagE e).k = s.k := rfl

@[simp] theorem State.setFlagE_inst (e : Bool) : (s.setFlagE e).inst = s.inst := rfl

@[simp] theorem State.setFlagE_operand (e : Bool) : (s.setFlagE e).operand = s.operand := rfl

@[simp] theorem State.setFlagE_err (e : Bool) : (s.setFlagE e).err = s.err := rfl

@[simp] theorem State.setFlagE_memSize (e : Bool) : (s.setFlagE e).memSize = s.memSize := rfl

@[simp] theorem State.setFlagE_mem (e : Bool) : (s.setFlagE e).mem = s.mem := rfl

@[simp] theorem State.setFlagE_inq (e : Bool) : (s.setFlagE e).inq = s.inq := rfl

@[simp] theorem State.setFlagE_outq (e : Bool) : (s.setFlagE e).outq = s.outq := rfl

@[simp] theorem State.setFlagE_asm (e : Bool) : (s.setFlagE e).asm = s.asm := rfl

/-! `State.finished` -/

@[simp] theorem State.finished_pc (i : Instr) : (s.finished i).pc = s.pc := rfl

@[simp] theorem State.finished_mar (i : Instr) : (s.finished i).mar = s.mar := rfl

@[simp] theorem State.finished_mdr (i : Instr) : (s.finished i).mdr = s.mdr := rfl

@[simp] theorem State.finished_cir (i : Instr) : (s.finished i).cir = s.cir := rfl

@[simp] theorem State.finished_acc (i : Instr) : (s.finished i).acc = s.acc := rfl

@[simp] theorem State.finished_ix (i : Instr) : (s.finished i).ix = s.ix := rfl

@[simp] theorem State.finished_flag (i : Instr) : (s.finished i).flag = s.flag := rfl

@[simp] theorem State.finished_alu (i : Instr) : (s.finished i).alu = s.alu := rfl

@[simp] theorem State.finished_phase (i : Instr) : (s.finished i).phase = .fetch := rfl

@[simp] theorem State.finished_k (i : Instr) : (s.finished i).k = 0 := rfl

@[simp] theorem State.finished_inst (i : Instr) : (s.finished i).inst = some i.entry := rfl

@[simp] theorem State.finished_operand (i : Instr) : (s.finished i).operand = i.operand := rfl

@[simp] theorem State.finished_err (i : Instr) : (s.finished i).err = s.err := rfl

@[simp] theorem State.finished_memSize (i : Instr) : (s.finished i).memSize = s.memSize := rfl

@[simp] theorem State.finished_mem (i : Instr) : (s.finished i).mem = s.mem := rfl

@[simp] theorem State.finished_inq (i : Instr) : (s.finished i).inq = s.inq := rfl

@[simp] theorem State.finished_outq (i : Instr) : (s.finished i).outq = s.outq := rfl

@[simp] theorem State.finished_asm (i : Instr) : (s.finished i).asm = s.asm := rfl

/-! `State.outOfBounds` -/

@[simp] theorem State.outOfBounds_pc (i : Instr) (a : Word) : (s.outOfBounds i a).pc = s.pc := rfl

@[simp] theorem State.outOfBounds_mar (i : Instr) (a : Word) : (s.outOfBounds i a).mar = s.mar := rfl

@[simp] theorem State.outOfBounds_mdr (i : Instr) (a : Word) : (s.outOfBounds i a).mdr = s.mdr := rfl

@[simp] theorem State.outOfBounds_cir (i : Instr) (a : Word) : (s.outOfBounds i a).cir = s.cir := rfl

@[simp] theorem State.outOfBounds_acc (i : Instr) (a : Word) : (s.outOfBounds i a).acc = s.acc := rfl

@[simp] theorem State.outOfBounds_ix (i : Instr) (a : Word) : (s.outOfBounds i a).ix = s.ix := rfl

@[simp] theorem State.outOfBounds_flag (i : Instr) (a : Word) : (s.outOfBounds i a).flag = s.flag := rfl

@[simp] theorem State.outOfBounds_alu (i : Instr) (a : Word) : (s.outOfBounds i a).alu = s.alu := rfl

@[simp] theorem State.outOfBounds_phase (i : Instr) (a : Word) : (s.outOfBounds i a).phase = .halt := rfl

@[simp] theorem State.outOfBounds_k (i : Instr) (a : Word) : (s.outOfBounds i a).k = 0 := rfl

@[simp] theorem State.outOfBounds_inst (i : Instr) (a : Word) : (s.outOfBounds i a).inst = some i.entry := rfl

@[simp] theorem State.outOfBounds_operand (i : Instr) (a : Word) : (s.outOfBounds i a).operand = i.operand := rfl

@[simp] theorem State.outOfBounds_err (i : Instr) (a : Word) : (s.outOfBounds i a).err = some (.addressOutOfBounds a) := rfl

@[simp] theorem State.outOfBounds_memSize (i : Instr) (a : Word) : (s.outOfBounds i a).memSize = s.memSize := rfl

@[simp] theorem State.outOfBounds_mem (i : Instr) (a : Word) : (s.outOfBounds i a).mem = s.mem := rfl

@[simp] theorem State.outOfBounds_inq (i : Instr) (a : Word) : (s.outOfBounds i a).inq = s.inq := rfl

@[simp] theorem State.outOfBounds_outq (i : Instr) (a : Word) : (s.outOfBounds i a).outq = s.outq := rfl

@[simp] theorem State.outOfBounds_asm (i : Instr) (a : Word) : (s.outOfBounds i a).asm = s.asm := rfl

/-! `State.pushInput` -/

@[simp] theorem State.pushInput_pc (v : Int) : (s.pushInput v).pc = s.pc := rfl

@[simp] theorem State.pushInput_mar (v : Int) : (s.pushInput v).mar = s.mar := rfl

@[simp] theorem State.pushInput_mdr (v : Int) : (s.pushInput v).mdr = s.mdr := rfl

@[simp] theorem State.pushInput_cir (v : Int) : (s.pushInput v).cir = s.cir := rfl

@[simp] theorem State.pushInput_acc (v : Int) : (s.pushInput v).acc = s.acc := rfl

@[simp] theorem State.pushInput_ix (v : Int) : (s.pushInput v).ix = s.ix := rfl

@[simp] theorem State.pushInput_flag (v : Int) : (s.pushInput v).flag = s.flag := rfl

@[simp] theorem State.pushInput_alu (v : Int) : (s.pushInput v).alu = s.alu := rfl

@[simp] theorem State.pushInput_phase (v : Int) : (s.pushInput v).phase = s.phase := rfl

@[simp] theorem State.pushInput_k (v : Int) : (s.pushInput v).k = s.k := rfl

@[simp] theorem State.pushInput_inst (v : Int) : (s.pushInput v).inst = s.inst := rfl

@[simp] theorem State.pushInput_operand (v : Int) : (s.pushInput v).operand = s.operand := rfl

@[simp] theorem State.pushInput_err (v : Int) : (s.pushInput v).err = s.err := rfl

@[simp] theorem State.pushInput_memSize (v : Int) : (s.pushInput v).memSize = s.memSize := rfl

@[simp] theorem State.pushInput_mem (v : Int) : (s.pushInput v).mem = s.mem := rfl

@[simp] theorem State.pushInput_inq (v : Int) : (s.pushInput v).inq = s.inq ++ [v] := rfl

@[simp] theorem State.pushInput_outq (v : Int) : (s.pushInput v).outq = s.outq := rfl

@[simp] theorem State.pushInput_asm (v : Int) : (s.pushInput v).asm = s.asm := rfl

/-! `State.newAssembler` -/

@[simp] theorem State.newAssembler_pc (lines : List (List Char)) : (s.newAssembler lines).pc = s.pc := rfl

@[simp] theorem State.newAssembler_mar (lines : List (List Char)) : (s.newAssembler lines).mar = s.mar := rfl

@[simp] theorem State.newAssembler_mdr (lines : List (List Char)) : (s.newAssembler lines).mdr = s.mdr := rfl

@[simp] theorem State.newAssembler_cir (lines : List (List Char)) : (s.newAssembler lines).cir = s.cir := rfl

@[simp] theorem State.newAssembler_acc (lines : List (List Char)) : (s.newAssembler lines).acc = s.acc := rfl

@[simp] theorem State.newAssembler_ix (lines : List (List Char)) : (s.newAssembler lines).ix = s.ix := rfl

@[simp] theorem State.newAssembler_flag (lines : List (List Char)) : (s.newAssembler lines).flag = s.flag := rfl

@[simp] theorem State.newAssembler_alu (lines : List (List Char)) : (s.newAssembler lines).alu = s.alu := rfl

@[simp] theorem State.newAssembler_phase (lines : List (List Char)) : (s.newAssembler lines).phase = s.phase := rfl

@[simp] theorem State.newAssembler_k (lines : List (List Char)) : (s.newAssembler lines).k = s.k := rfl

@[simp] theorem State.newAssembler_inst (lines : List (List Char)) : (s.newAssembler lines).inst = s.inst := rfl

@[simp] theorem State.newAssembler_operand (lines : List (List Char)) : (s.newAssembler lines).operand = s.operand := rfl

@[simp] theorem State.newAssembler_err (lines : List (List Char)) : (s.newAssembler lines).err = s.err := rfl

@[simp] theorem State.newAssembler_memSize (lines : List (List Char)) : (s.newAssembler lines).memSize = s.memSize := rfl

@[simp] theorem State.newAssembler_mem (lines : List (List Char)) : (s.newAssembler lines).mem = s.mem := rfl

@[simp] theorem State.newAssembler_inq (lines : List (List Char)) : (s.newAssembler lines).inq = s.inq := rfl

@[simp] theorem State.newAssembler_outq (lines : List (List Char)) : (s.newAssembler lines).outq = s.outq := rfl

@[simp] theorem State.newAssembler_asm (lines : List (List Char)) : (s.newAssembler lines).asm = some (AsmState.new lines) := rfl

/-! `State.setDst` -/

@[simp] theorem State.setDst_acc (v : Word) : s.setDst .acc v = { s with acc := v } := rfl

@[simp] theorem State.setDst_ix (v : Word) : s.setDst .ix v = { s with ix := v } := rfl

@[simp] theorem State.setDst_mar (v : Word) : s.setDst .mar v = { s with mar := v } := rfl

@[simp] theorem State.setDst_mdr (v : Word) : s.setDst .mdr v = { s with mdr := v } := rfl

@[simp] theorem State.setDst_pc (v : Word) : s.setDst .pc v = { s with pc := v } := rfl

@[simp] theorem State.cir_setDst (d : TransferDst) (v : Word) : (s.setDst d v).cir = s.cir := by
  cases d <;> rfl

@[simp] theorem State.flag_setDst (d : TransferDst) (v : Word) : (s.setDst d v).flag = s.flag := by
  cases d <;> rfl

@[simp] theorem State.alu_setDst (d : TransferDst) (v : Word) : (s.setDst d v).alu = s.alu := by
  cases d <;> rfl

@[simp] theorem State.phase_setDst (d : TransferDst) (v : Word) : (s.setDst d v).phase = s.phase := by
  cases d <;> rfl

@[simp] theorem State.k_setDst (d : TransferDst) (v : Word) : (s.setDst d v).k = s.k := by
  cases d <;> rfl

@[simp] theorem State.inst_setDst (d : TransferDst) (v : Word) : (s.setDst d v).inst = s.inst := by
  cases d <;> rfl

@[simp] theorem State.operand_setDst (d : TransferDst) (v : Word) : (s.setDst d v).operand = s.operand := by
  cases d <;> rfl

@[simp] theorem State.err_setDst (d : TransferDst) (v : Word) : (s.setDst d v).err = s.err := by
  cases d <;> rfl

@[simp] theorem State.memSize_setDst (d : TransferDst) (v : Word) : (s.setDst d v).memSize = s.memSize := by
  cases d <;> rfl

@[simp] theorem State.mem_setDst (d : TransferDst) (v : Word) : (s.setDst d v).mem = s.mem := by
  cases d <;> rfl

@[simp] theorem State.inq_setDst (d : TransferDst) (v : Word) : (s.setDst d v).inq = s.inq := by
  cases d <;> rfl

@[simp] theorem State.outq_setDst (d : TransferDst) (v : Word) : (s.setDst d v).outq = s.outq := by
  cases d <;> rfl

@[simp] theorem State.asm_setDst (d : TransferDst) (v : Word) : (s.setDst d v).asm = s.asm := by
  cases d <;> rfl

/-! `State.setCountReg` -/

@[simp] theorem State.setCountReg_acc (v : Word) : s.setCountReg .acc v = { s with acc := v } := rfl

@[simp] theorem State.setCountReg_ix (v : Word) : s.setCountReg .ix v = { s with ix := v } := rfl

@[simp] theorem State.pc_setCountReg (r : CountReg) (v : Word) : (s.setCountReg r v).pc = s.pc := by
  cases r <;> rfl

@[simp] theorem State.mar_setCountReg (r : CountReg) (v : Word) : (s.setCountReg r v).mar = s.mar := by
  cases r <;> rfl

@[simp] theorem State.mdr_setCountReg (r : CountReg) (v : Word) : (s.setCountReg r v).mdr = s.mdr := by
  cases r <;> rfl

@[simp] theorem State.cir_setCountReg (r : CountReg) (v : Word) : (s.setCountReg r v).cir = s.cir := by
  cases r <;> rfl

@[simp] theorem State.flag_setCountReg (r : CountReg) (v : Word) : (s.setCountReg r v).flag = s.flag := by
  cases r <;> rfl

@[simp] theorem State.alu_setCountReg (r : CountReg) (v : Word) : (s.setCountReg r v).alu = s.alu := by
  cases r <;> rfl

@[simp] theorem State.phase_setCountReg (r : CountReg) (v : Word) : (s.setCountReg r v).phase = s.phase := by
  cases r <;> rfl

@[simp] theorem State.k_setCountReg (r : CountReg) (v : Word) : (s.setCountReg r v).k = s.k := by
  cases r <;> rfl

@[simp] theorem State.inst_setCountReg (r : CountReg) (v : Word) : (s.setCountReg r v).inst = s.inst := by
  cases r <;> rfl

@[simp] theorem State.operand_setCountReg (r : CountReg) (v : Word) : (s.setCountReg r v).operand = s.operand := by
  cases r <;> rfl

@[simp] theorem State.err_setCountReg (r : CountReg) (v : Word) : (s.setCountReg r v).err = s.err := by
  cases r <;> rfl

@[simp] theorem State.memSize_setCountReg (r : CountReg) (v : Word) : (s.setCountReg r v).memSize = s.memSize := by
  cases r <;> rfl

@[simp] theorem State.mem_setCountReg (r : CountReg) (v : Word) : (s.setCountReg r v).mem = s.mem := by
  cases r <;> rfl

@[simp] theorem State.inq_setCountReg (r : CountReg) (v : Word) : (s.setCountReg r v).inq = s.inq := by
  cases r <;> rfl

@[simp] theorem State.outq_setCountReg (r : CountReg) (v : Word) : (s.setCountReg r v).outq = s.outq := by
  cases r <;> rfl

@[simp] theorem State.asm_setCountReg (r : CountReg) (v : Word) : (s.setCountReg r v).asm = s.asm := by
  cases r <;> rfl

/-! `State.aluStep` -/

@[simp] theorem State.pc_aluStep (op : AluOp) (b : Word) : (s.aluStep op b).pc = s.pc := by
  cases op <;> rfl

@[simp] theorem State.mar_aluStep (op : AluOp) (b : Word) : (s.aluStep op b).mar = s.mar := by
  cases op <;> rfl

@[simp] theorem State.mdr_aluStep (op : AluOp) (b : Word) : (s.aluStep op b).mdr = s.mdr := by
  cases op <;> rfl

@[simp] theorem State.cir_aluStep (op : AluOp) (b : Word) : (s.aluStep op b).cir = s.cir := by
  cases op <;> rfl

@[simp] theorem State.ix_aluStep (op : AluOp) (b : Word) : (s.aluStep op b).ix = s.ix := by
  cases op <;> rfl

@[simp] theorem State.phase_aluStep (op : AluOp) (b : Word) : (s.aluStep op b).phase = s.phase := by
  cases op <;> rfl

@[simp] theorem State.k_aluStep (op : AluOp) (b : Word) : (s.aluStep op b).k = s.k := by
  cases op <;> rfl

@[simp] theorem State.inst_aluStep (op : AluOp) (b : Word) : (s.aluStep op b).inst = s.inst := by
  cases op <;> rfl

@[simp] theorem State.operand_aluStep (op : AluOp) (b : Word) : (s.aluStep op b).operand = s.operand := by
  cases op <;> rfl

@[simp] theorem State.err_aluStep (op : AluOp) (b : Word) : (s.aluStep op b).err = s.err := by
  cases op <;> rfl

@[simp] theorem State.memSize_aluStep (op : AluOp) (b : Word) : (s.aluStep op b).memSize = s.memSize := by
  cases op <;> rfl

@[simp] theorem State.mem_aluStep (op : AluOp) (b : Word) : (s.aluStep op b).mem = s.mem := by
  cases op <;> rfl

@[simp] theorem State.inq_aluStep (op : AluOp) (b : Word) : (s.aluStep op b).inq = s.inq := by
  cases op <;> rfl

@[simp] theorem State.outq_aluStep (op : AluOp) (b : Word) : (s.aluStep op b).outq = s.outq := by
  cases op <;> rfl

@[simp] theorem State.asm_aluStep (op : AluOp) (b : Word) : (s.aluStep op b).asm = s.asm := by
  cases op <;> rfl

@[simp] theorem State.alu_aluStep (op : AluOp) (b : Word) :
    (s.aluStep op b).alu = latchOf op s.acc b := by
  cases op <;> rfl

end Sys2Proof.Machine
end

