-- ==== Sys2Proof/Laws/Ops.lean ====
section
/-! SUPPORT. For each shared operation, what it can do, said once. -/

namespace Sys2Proof.Machine

/-! ### RTN steps -/

/-- A read at MAR: inside MEM_SIZE it changes MDR alone, beyond it raises (R12, R51). -/
theorem State.readMar_cases (s : State) :
    (s.inBounds s.mar = true ∧ s.readMar = .done { s with mdr := s.word s.mar }) ∨
      (s.inBounds s.mar = false ∧ s.readMar = .raises (.addressOutOfBounds s.mar)) := by
  unfold State.readMar
  cases h : s.inBounds s.mar <;> simp

/-- A write at MAR: inside MEM_SIZE it changes one word of memory, beyond it raises (R12, R51). -/
theorem State.writeMar_cases (s : State) :
    (s.inBounds s.mar = true ∧
        s.writeMar = .done { s with mem := s.mem.write s.mar.toNat s.mdr }) ∨
      (s.inBounds s.mar = false ∧ s.writeMar = .raises (.addressOutOfBounds s.mar)) := by
  unfold State.writeMar
  cases h : s.inBounds s.mar <;> simp

/-- Taking an input: blocked on an empty queue, else ACC and the queue change (R230). -/
theorem State.popInput_cases (s : State) :
    (s.inq = [] ∧ s.popInput = .blocked) ∨
      (∃ v q, s.inq = v :: q ∧ s.popInput = .done { s with acc := wrap16 v, inq := q }) := by
  unfold State.popInput
  cases h : s.inq with
  | nil => exact .inl ⟨rfl, rfl⟩
  | cons v q => exact .inr ⟨v, q, rfl, rfl⟩

/-- What no RTN step changes: CIR, the control unit, OPERAND, ERR, MEM_SIZE, the assembler. -/
theorem RtnStep.run_keeps {r : RtnStep} {s t : State} (h : r.run s = .done t) :
    t.cir = s.cir ∧ t.phase = s.phase ∧ t.k = s.k ∧ t.inst = s.inst ∧ t.operand = s.operand ∧
      t.err = s.err ∧ t.memSize = s.memSize ∧ t.asm = s.asm := by
  cases r with
  | transfer d r => obtain rfl : s.setDst d (s.src r) = t := RtnResult.done.inj h; simp
  | indexAddr => obtain rfl := RtnResult.done.inj h; simp
  | memRead =>
    rcases s.readMar_cases with ⟨_, hr⟩ | ⟨_, hr⟩
    · rw [RtnStep.run, hr] at h; obtain rfl := RtnResult.done.inj h; simp
    · rw [RtnStep.run, hr] at h; cases h
  | memWrite =>
    rcases s.writeMar_cases with ⟨_, hr⟩ | ⟨_, hr⟩
    · rw [RtnStep.run, hr] at h; obtain rfl := RtnResult.done.inj h; simp
    · rw [RtnStep.run, hr] at h; cases h
  | alu op b => obtain rfl : s.aluStep op (s.aluSrc b) = t := RtnResult.done.inj h; simp
  | regInc r => obtain rfl := RtnResult.done.inj h; simp
  | regDec r => obtain rfl := RtnResult.done.inj h; simp
  | condTransfer w =>
    obtain rfl := RtnResult.done.inj h
    by_cases hw : s.flagE = w <;> simp [hw]
  | inPop =>
    rcases s.popInput_cases with ⟨_, hr⟩ | ⟨v, q, _, hr⟩
    · rw [RtnStep.run, hr] at h; cases h
    · rw [RtnStep.run, hr] at h; obtain rfl := RtnResult.done.inj h; simp
  | outPush => obtain rfl := RtnResult.done.inj h; simp
  | halt => obtain rfl := RtnResult.done.inj h; simp

/-- The one error an RTN step raises: AddressOutOfBounds of MAR, by a memory access (R301). -/
theorem RtnStep.run_raises {r : RtnStep} {s : State} {e : CpuError} (h : r.run s = .raises e) :
    (r = .memRead ∨ r = .memWrite) ∧ s.inBounds s.mar = false ∧ e = .addressOutOfBounds s.mar := by
  cases r with
  | memRead =>
    rcases s.readMar_cases with ⟨_, hr⟩ | ⟨hb, hr⟩
    · rw [RtnStep.run, hr] at h; cases h
    · rw [RtnStep.run, hr] at h; exact ⟨.inl rfl, hb, (RtnResult.raises.inj h).symm⟩
  | memWrite =>
    rcases s.writeMar_cases with ⟨_, hr⟩ | ⟨hb, hr⟩
    · rw [RtnStep.run, hr] at h; cases h
    · rw [RtnStep.run, hr] at h; exact ⟨.inr rfl, hb, (RtnResult.raises.inj h).symm⟩
  | inPop =>
    rcases s.popInput_cases with ⟨_, hr⟩ | ⟨v, q, _, hr⟩
    · rw [RtnStep.run, hr] at h; cases h
    · rw [RtnStep.run, hr] at h; cases h
  | _ => cases h

/-- The one RTN step that blocks: IN with an empty queue (R230). -/
theorem RtnStep.run_blocked {r : RtnStep} {s : State} (h : r.run s = .blocked) :
    r = .inPop ∧ s.inq = [] := by
  cases r with
  | memRead =>
    rcases s.readMar_cases with ⟨_, hr⟩ | ⟨_, hr⟩ <;> · rw [RtnStep.run, hr] at h; cases h
  | memWrite =>
    rcases s.writeMar_cases with ⟨_, hr⟩ | ⟨_, hr⟩ <;> · rw [RtnStep.run, hr] at h; cases h
  | inPop =>
    rcases s.popInput_cases with ⟨hq, _⟩ | ⟨v, q, _, hr⟩
    · exact ⟨rfl, hq⟩
    · rw [RtnStep.run, hr] at h; cases h
  | _ => cases h

/-- An ALU step other than compare writes ACC and the eight fields of the latch (R112). -/
theorem State.aluStep_eq_withAlu (s : State) {op : AluOp} (b : Word) (h : op ≠ .compare) :
    s.aluStep op b = s.withAlu op b := by
  cases op <;> first | rfl | exact absurd rfl h

/-- The compare step writes FLAG.E and the eight fields of the latch (R112, R115). -/
theorem State.aluStep_compare (s : State) (b : Word) :
    s.aluStep .compare b = s.withCompare b := by
  simp [State.aluStep, State.setFlagE, State.withCompare, latchOf, comparisonTrue]

/-! ### Loads -/

/-- A load either fits and leaves the loaded state, or is refused and leaves the state as it was
(R331, R332). -/
theorem State.load_cases (s : State) (words : List Word) (start : Word) :
    (start.toNat + words.length ≤ s.memSize ∧ s.load words start = .loaded (s.loaded words start) ∧
        s.act (.load words (some start)) = .next (s.loaded words start)) ∨
      (s.memSize < start.toNat + words.length ∧
        s.load words start = .addressOutOfBounds (max start.toNat s.memSize) ∧
        s.act (.load words (some start)) = .next s) := by
  by_cases h : start.toNat + words.length ≤ s.memSize
  · exact .inl ⟨h, by simp [State.load, h], by simp [State.act, State.load, h, LoadResult.stateAfter]⟩
  · exact .inr ⟨by omega, by simp [State.load, h],
      by simp [State.act, State.load, h, LoadResult.stateAfter]⟩

/-- A load that gives no start is a load at START_ADDRESS (R7, R331). -/
theorem State.act_load_default (s : State) (words : List Word) :
    s.act (.load words) = s.act (.load words (some Config.startAddress)) := rfl

/-! ### Sequences -/

theorem State.runSteps_done {s t : State} {e : CatalogEntry} {r : RtnStep} {rs : List RtnStep}
    (h : r.run s = .done t) :
    s.runSteps e (r :: rs) = if rs.isEmpty then t.leaveExecute e else t.nextStep.runSteps e rs := by
  rw [State.runSteps, h]

theorem State.runSteps_blocked {s : State} {e : CatalogEntry} {r : RtnStep} {rs : List RtnStep}
    (h : r.run s = .blocked) : s.runSteps e (r :: rs) = s := by
  rw [State.runSteps, h]

theorem State.runSteps_raises {s : State} {e : CatalogEntry} {r : RtnStep} {rs : List RtnStep}
    {x : CpuError} (h : r.run s = .raises x) : s.runSteps e (r :: rs) = s.raise x := by
  rw [State.runSteps, h]

/-- Every meaning runs the RTN sequence of its instruction's entry (R108). -/
theorem exec_eq_execute (i : Instr) (s : State) : exec i s = .next (s.execute i) := by
  cases i <;> rfl

/-- Running an instruction does not depend on what its latches held before. -/
theorem State.execute_latch (s : State) (i : Instr) : (s.latch i).execute i = s.execute i := rfl

/-! ### The control unit -/

/-- HALT is terminal for the spec's step and for the model's (R101). -/
theorem State.rtnStep_halt {s : State} (h : s.phase = .halt) : s.rtnStep = .next s := by
  simp [State.rtnStep, h]

theorem step_execute {s : State} (h : s.phase = .execute) : step s = s.resume := by
  simp [step, h]

/-- Two runs of RTN steps one after the other. -/
theorem State.rtnRun_add {s t : State} {m : Nat} (h : s.rtnRun m = .next t) (n : Nat) :
    s.rtnRun (m + n) = t.rtnRun n := by
  induction m generalizing s with
  | zero =>
    obtain rfl : s = t := Host.Outcome.next.inj h
    simp
  | succ m ih =>
    rw [Nat.succ_add, State.rtnRun]
    rw [State.rtnRun] at h
    cases hs : s.rtnStep with
    | next u => rw [hs] at h; exact ih h
    | fault f => rw [hs] at h; cases h
    | refused r => rw [hs] at h; cases h

/-! ### The assembler -/

/-- An emission fails on the bounds check, changing `err` alone, or writes the line's words and
moves the cursor (R262). -/
theorem AsmState.emit_cases (a : AsmState) (memSize : Nat) (mem : Memory) (n addr : Nat)
    (words : List Word) :
    (memSize ≤ addr + words.length - 1 ∧
        a.emit memSize mem n addr words = (a.fail .addressOutOfBounds n (.address addr), mem)) ∨
      (addr + words.length - 1 < memSize ∧
        a.emit memSize mem n addr words
          = ({ a with cursor := a.cursor + 1 }, mem.writeList addr words)) := by
  unfold AsmState.emit
  split
  · next h => exact .inl ⟨h, rfl⟩
  · next h => exact .inr ⟨by omega, rfl⟩

/-- An assembler that has failed or is DONE does nothing (R251). -/
theorem AsmState.step_stopped (a : AsmState) (memSize : Nat) (mem : Memory)
    (h : a.err.isSome = true ∨ a.phase = .done) : a.step memSize mem = (a, mem) := by
  unfold AsmState.step
  split
  · rfl
  · next he =>
    rcases h with h | h
    · exact absurd h he
    · rw [h]

end Sys2Proof.Machine
end

