-- ==== Sys2Proof/Laws/PerInstr.lean ====
section
/-! SUPPORT. Lemmas per constructor of Instr: the catalog finds every instruction by its opcode. -/

namespace Sys2Proof.Laws.OpcodeRow

/-- The opcode of an instruction selects its entry and its form (R75, R106): no two rows of the
catalog share an opcode. -/
def Statement (i : Instr) : Prop :=
  lookupEntry i.entry.opcode = some i.entry
    ∧ (lookupForm i.entry.opcode).map (fun f => f i.operand) = some i

theorem ldmS (n : Word) : Statement (.ldmS n) := ⟨rfl, rfl⟩

theorem lddS (n : Word) : Statement (.lddS n) := ⟨rfl, rfl⟩

theorem ldiS (n : Word) : Statement (.ldiS n) := ⟨rfl, rfl⟩

theorem ldxS (n : Word) : Statement (.ldxS n) := ⟨rfl, rfl⟩

theorem ldrS (n : Word) : Statement (.ldrS n) := ⟨rfl, rfl⟩

theorem movIx (n : Word) : Statement (.movIx n) := ⟨rfl, rfl⟩

theorem stoS (n : Word) : Statement (.stoS n) := ⟨rfl, rfl⟩

theorem addImmS (n : Word) : Statement (.addImmS n) := ⟨rfl, rfl⟩

theorem addDirS (n : Word) : Statement (.addDirS n) := ⟨rfl, rfl⟩

theorem subImmS (n : Word) : Statement (.subImmS n) := ⟨rfl, rfl⟩

theorem subDirS (n : Word) : Statement (.subDirS n) := ⟨rfl, rfl⟩

theorem incAcc (n : Word) : Statement (.incAcc n) := ⟨rfl, rfl⟩

theorem incIx (n : Word) : Statement (.incIx n) := ⟨rfl, rfl⟩

theorem decAcc (n : Word) : Statement (.decAcc n) := ⟨rfl, rfl⟩

theorem decIx (n : Word) : Statement (.decIx n) := ⟨rfl, rfl⟩

theorem jmpS (n : Word) : Statement (.jmpS n) := ⟨rfl, rfl⟩

theorem cmpImmS (n : Word) : Statement (.cmpImmS n) := ⟨rfl, rfl⟩

theorem cmpDirS (n : Word) : Statement (.cmpDirS n) := ⟨rfl, rfl⟩

theorem cmiS (n : Word) : Statement (.cmiS n) := ⟨rfl, rfl⟩

theorem jpeS (n : Word) : Statement (.jpeS n) := ⟨rfl, rfl⟩

theorem jpnS (n : Word) : Statement (.jpnS n) := ⟨rfl, rfl⟩

theorem andImmS (n : Word) : Statement (.andImmS n) := ⟨rfl, rfl⟩

theorem andDirS (n : Word) : Statement (.andDirS n) := ⟨rfl, rfl⟩

theorem orImmS (n : Word) : Statement (.orImmS n) := ⟨rfl, rfl⟩

theorem orDirS (n : Word) : Statement (.orDirS n) := ⟨rfl, rfl⟩

theorem xorImmS (n : Word) : Statement (.xorImmS n) := ⟨rfl, rfl⟩

theorem xorDirS (n : Word) : Statement (.xorDirS n) := ⟨rfl, rfl⟩

theorem lslS (n : Word) : Statement (.lslS n) := ⟨rfl, rfl⟩

theorem lsrS (n : Word) : Statement (.lsrS n) := ⟨rfl, rfl⟩

theorem input (n : Word) : Statement (.input n) := ⟨rfl, rfl⟩

theorem output (n : Word) : Statement (.output n) := ⟨rfl, rfl⟩

theorem stop (n : Word) : Statement (.stop n) := ⟨rfl, rfl⟩

theorem ldmL (n : Word) : Statement (.ldmL n) := ⟨rfl, rfl⟩

theorem lddL (n : Word) : Statement (.lddL n) := ⟨rfl, rfl⟩

theorem ldiL (n : Word) : Statement (.ldiL n) := ⟨rfl, rfl⟩

theorem ldxL (n : Word) : Statement (.ldxL n) := ⟨rfl, rfl⟩

theorem ldrL (n : Word) : Statement (.ldrL n) := ⟨rfl, rfl⟩

theorem stoL (n : Word) : Statement (.stoL n) := ⟨rfl, rfl⟩

theorem addImmL (n : Word) : Statement (.addImmL n) := ⟨rfl, rfl⟩

theorem addDirL (n : Word) : Statement (.addDirL n) := ⟨rfl, rfl⟩

theorem subImmL (n : Word) : Statement (.subImmL n) := ⟨rfl, rfl⟩

theorem subDirL (n : Word) : Statement (.subDirL n) := ⟨rfl, rfl⟩

theorem jmpL (n : Word) : Statement (.jmpL n) := ⟨rfl, rfl⟩

theorem cmpImmL (n : Word) : Statement (.cmpImmL n) := ⟨rfl, rfl⟩

theorem cmpDirL (n : Word) : Statement (.cmpDirL n) := ⟨rfl, rfl⟩

theorem cmiL (n : Word) : Statement (.cmiL n) := ⟨rfl, rfl⟩

theorem jpeL (n : Word) : Statement (.jpeL n) := ⟨rfl, rfl⟩

theorem jpnL (n : Word) : Statement (.jpnL n) := ⟨rfl, rfl⟩

theorem andImmL (n : Word) : Statement (.andImmL n) := ⟨rfl, rfl⟩

theorem andDirL (n : Word) : Statement (.andDirL n) := ⟨rfl, rfl⟩

theorem orImmL (n : Word) : Statement (.orImmL n) := ⟨rfl, rfl⟩

theorem orDirL (n : Word) : Statement (.orDirL n) := ⟨rfl, rfl⟩

theorem xorImmL (n : Word) : Statement (.xorImmL n) := ⟨rfl, rfl⟩

theorem xorDirL (n : Word) : Statement (.xorDirL n) := ⟨rfl, rfl⟩

theorem lslL (n : Word) : Statement (.lslL n) := ⟨rfl, rfl⟩

theorem lsrL (n : Word) : Statement (.lsrL n) := ⟨rfl, rfl⟩

end Sys2Proof.Laws.OpcodeRow
end

