-- ==== Sys2Proof/Tests/Slice0.lean ====
section
/-! SUPPORT. Our own tests. Every word in the decode tests is written out from the layout of
30_encoding.md R71 and R72 and the opcodes of R75. Every expected value in the instruction tests is
that of the row of 95_test_vectors.md which the comment names. At the end, for every statement with hypotheses,
a witness that meets them. -/

namespace Sys2Proof.Tests

open Sys2Proof Sys2Proof.Machine

/-! ### Helpers -/

/-- The outcome is a next state with the property. -/
def holds (o : Host.Outcome State Fault Refusal) (p : State → Bool) : Bool :=
  match o with
  | .next t => p t
  | _ => false

/-- A state with words stored from address 0 on. -/
def place (ws : List Word) (s : State) : State := { s with mem := s.mem.writeList 0 ws }

/-- A small machine: MEM_SIZE 16. -/
def small : State := State.create 16

/-- A machine of the default size. -/
def big : State := State.create 65536

/-! ### WellFormed -/

/-- The one check of `wf`: a short operand of 9 bits does not fit its field (R71, R77). -/
theorem test_wf_refuses_wide_short_operand :
    (Instr.ldmS 256).wf = false ∧ (Instr.ldmS 255).wf = true ∧ (Instr.ldmL 256).wf = true := by decide

/-- The checks of `canonical`: register and none mode with operand bits set, a short form with a wide
operand, a long form with a narrow one (R74, R259). -/
theorem test_canonical_refuses :
    (Instr.incAcc 1).canonical = false ∧ (Instr.stop 1).canonical = false ∧
    (Instr.stoS 256).canonical = false ∧ (Instr.stoL 255).canonical = false ∧
    (Instr.stop 0).canonical = true ∧ (Instr.stoL 256).canonical = true := by decide

/-! ### Decoding: one word for every constructor -/

theorem test_decode_movement_short :
    decodeTableWord 16 0x0105 = some (.ldmS 5) ∧ decodeTableWord 16 0x020A = some (.lddS 10) ∧
    decodeTableWord 16 0x0314 = some (.ldiS 20) ∧ decodeTableWord 16 0x0432 = some (.ldxS 50) ∧
    decodeTableWord 16 0x0503 = some (.ldrS 3) ∧ decodeTableWord 16 0x06AB = some (.movIx 0xAB) ∧
    decodeTableWord 16 0x070A = some (.stoS 10) := by decide

theorem test_decode_arithmetic_short :
    decodeTableWord 16 0x0803 = some (.addImmS 3) ∧ decodeTableWord 16 0x0909 = some (.addDirS 9) ∧
    decodeTableWord 16 0x0A08 = some (.subImmS 8) ∧ decodeTableWord 16 0x0B04 = some (.subDirS 4) ∧
    decodeTableWord 16 0x0C00 = some (.incAcc 0) ∧ decodeTableWord 16 0x0D00 = some (.incIx 0) ∧
    decodeTableWord 16 0x0E00 = some (.decAcc 0) ∧ decodeTableWord 16 0x0F00 = some (.decIx 0) := by
  decide

theorem test_decode_compare_short :
    decodeTableWord 16 0x10C8 = some (.jmpS 200) ∧ decodeTableWord 16 0x1105 = some (.cmpImmS 5) ∧
    decodeTableWord 16 0x1228 = some (.cmpDirS 40) ∧ decodeTableWord 16 0x130D = some (.cmiS 13) ∧
    decodeTableWord 16 0x1420 = some (.jpeS 32) ∧ decodeTableWord 16 0x1504 = some (.jpnS 4) := by
  decide

theorem test_decode_logic_short :
    decodeTableWord 16 0x16FF = some (.andImmS 255) ∧ decodeTableWord 16 0x1708 = some (.andDirS 8) ∧
    decodeTableWord 16 0x180F = some (.orImmS 15) ∧ decodeTableWord 16 0x1907 = some (.orDirS 7) ∧
    decodeTableWord 16 0x1AFF = some (.xorImmS 255) ∧ decodeTableWord 16 0x1B02 = some (.xorDirS 2) ∧
    decodeTableWord 16 0x1C0F = some (.lslS 15) ∧ decodeTableWord 16 0x1D01 = some (.lsrS 1) := by
  decide

theorem test_decode_io :
    decodeTableWord 16 0x1E00 = some (.input 0) ∧ decodeTableWord 16 0x1F00 = some (.output 0) ∧
    decodeTableWord 16 0x2000 = some (.stop 0) ∧ decodeTableWord 16 0x20FF = some (.stop 0xFF) := by
  decide

theorem test_decode_movement_long :
    decodeTableWord 32 0x12348100 = some (.ldmL 0x1234) ∧
    decodeTableWord 32 0x012C8200 = some (.lddL 300) ∧
    decodeTableWord 32 0x012C8300 = some (.ldiL 300) ∧
    decodeTableWord 32 0xFFFF8400 = some (.ldxL 65535) ∧
    decodeTableWord 32 0x03E88500 = some (.ldrL 1000) ∧
    decodeTableWord 32 0x012C8700 = some (.stoL 300) := by decide

theorem test_decode_arithmetic_long :
    decodeTableWord 32 0x03E88800 = some (.addImmL 1000) ∧
    decodeTableWord 32 0x03E88900 = some (.addDirL 1000) ∧
    decodeTableWord 32 0x01DD8A00 = some (.subImmL 0x1DD) ∧
    decodeTableWord 32 0x01DD8B00 = some (.subDirL 0x1DD) := by decide

theorem test_decode_compare_long :
    decodeTableWord 32 0x012C9000 = some (.jmpL 300) ∧
    decodeTableWord 32 0xFFFF9100 = some (.cmpImmL 0xFFFF) ∧
    decodeTableWord 32 0x012C9200 = some (.cmpDirL 300) ∧
    decodeTableWord 32 0x012C9300 = some (.cmiL 300) ∧
    decodeTableWord 32 0x012C9400 = some (.jpeL 300) ∧
    decodeTableWord 32 0x012C9500 = some (.jpnL 300) := by decide

theorem test_decode_logic_long :
    decodeTableWord 32 0x12349600 = some (.andImmL 0x1234) ∧
    decodeTableWord 32 0x12349700 = some (.andDirL 0x1234) ∧
    decodeTableWord 32 0x12349800 = some (.orImmL 0x1234) ∧
    decodeTableWord 32 0x12349900 = some (.orDirL 0x1234) ∧
    decodeTableWord 32 0x80019A00 = some (.xorImmL 0x8001) ∧
    decodeTableWord 32 0x12349B00 = some (.xorDirL 0x1234) ∧
    decodeTableWord 32 0x01009C00 = some (.lslL 256) ∧
    decodeTableWord 32 0x012C9D00 = some (.lsrL 300) := by decide

/-- The illegal words of section 2.7, and the reserved low byte of a long form's first word. -/
theorem test_decode_refuses_by_name :
    decode [0x0000] = .error (.unknownOpcode 0x00 0x0000) ∧
    decode [0x2100] = .error (.unknownOpcode 0x21 0x2100) ∧
    decode [0x8600] = .error (.unknownOpcode 0x86 0x8600) ∧
    decode [0xFF00] = .error (.unknownOpcode 0xFF 0xFF00) ∧
    decode [0x8100] = .error (.noOperandWord 0x81) ∧ decode [] = .error .noWord ∧
    decode [0x81AB, 7, 9] = .ok (.ldmL 7, [9]) := ⟨rfl, rfl, rfl, rfl, rfl, rfl, rfl⟩

/-! ### The ALU (section 2.1) -/

theorem test_alu_add :
    compute .add 0xFFFF 0x0001 = ⟨0x0000, true, false, true, false⟩ ∧
    compute .add 0x7FFF 0x0001 = ⟨0x8000, false, true, false, true⟩ ∧
    compute .add 0x8000 0x8000 = ⟨0x0000, true, false, true, true⟩ ∧
    compute .add 0xFFFF 0xFFFF = ⟨0xFFFE, false, true, true, false⟩ := by decide

theorem test_alu_subtract :
    compute .subtract 0x0003 0x0008 = ⟨0xFFFB, false, true, true, false⟩ ∧
    compute .subtract 0x8000 0x0001 = ⟨0x7FFF, false, false, false, true⟩ ∧
    compute .subtract 0x7FFF 0xFFFF = ⟨0x8000, false, true, true, true⟩ ∧
    compute .compare 0x23CF 0x1234 = ⟨0x119B, false, false, false, false⟩ ∧
    compute .compare 0xFFFF 0xFFFF = ⟨0x0000, true, false, false, false⟩ := by decide

theorem test_alu_logic :
    compute .and 0xF0F0 0x0FF0 = ⟨0x00F0, false, false, false, false⟩ ∧
    compute .or 0xF000 0x000F = ⟨0xF00F, false, true, false, false⟩ ∧
    compute .xor 0xFFFF 0x8001 = ⟨0x7FFE, false, false, false, false⟩ ∧
    compute .xor 0x1234 0x1234 = ⟨0x0000, true, false, false, false⟩ := by decide

theorem test_alu_shift :
    compute .shiftLeft 0x0001 15 = ⟨0x8000, false, true, false, false⟩ ∧
    compute .shiftLeft 0x8001 1 = ⟨0x0002, false, false, false, false⟩ ∧
    compute .shiftLeft 0x1234 16 = ⟨0x0000, true, false, false, false⟩ ∧
    compute .shiftRight 0x8000 15 = ⟨0x0001, false, false, false, false⟩ ∧
    compute .shiftRight 0xFFFF 20 = ⟨0x0000, true, false, false, false⟩ ∧
    compute .shiftRight 0x1234 4 = ⟨0x0123, false, false, false, false⟩ := by decide

/-! ### One instruction (sections 1 and 2.3 to 2.9) -/

/-- DM2. -/
theorem test_ldm_long :
    holds (step (place [0x8100, 0xFFFF] small)) (fun t => t.acc == 0xFFFF && t.pc == 2) = true := by
  decide

/-- DM3 and DM4. -/
theorem test_ldd :
    holds (step (place [0x020A, 0, 0, 0, 0, 0, 0, 0, 0, 0, 0x1234] small))
      (fun t => t.acc == 0x1234 && t.mar == 10 && t.mdr == 0x1234 && t.pc == 1) = true ∧
    holds (step (place [0x0200] small)) (fun t => t.acc == 0x0200) = true := by decide

/-- DM5 (with the addresses 2 and 3), DM6. -/
theorem test_ldi :
    holds (step (place [0x0302, 0, 3, 7] small))
      (fun t => t.acc == 7 && t.mar == 3 && t.mdr == 7) = true ∧
    holds (step (place [0x0305, 0, 0, 0, 0, 5] small)) (fun t => t.acc == 5) = true := by decide

/-- DM7: the indexed address wraps before the bounds check. -/
theorem test_ldx_wraps :
    holds (step (place [0x8400, 0xFFFF] { small with ix := 2 }))
      (fun t => t.acc == 0xFFFF && t.mar == 1 && t.ix == 2) = true := by decide

/-- W6. -/
theorem test_ldx :
    holds (step { big with mem := [(0, 0x0432), (53, 0xBEEF)], ix := 3 })
      (fun t => t.acc == 0xBEEF && t.mar == 53 && t.mdr == 0xBEEF && t.pc == 1) = true := by decide

/-- DM9, DM10, DM11. -/
theorem test_ldr_movIx :
    holds (step (place [0x0503] small)) (fun t => t.ix == 3 && t.acc == 0) = true ∧
    holds (step (place [0x06AB] { small with acc := 0x00FF }))
      (fun t => t.ix == 0x00FF && t.acc == 0x00FF) = true := by decide

/-- DM12. -/
theorem test_sto :
    holds (step (place [0x070A] { small with acc := 5 }))
      (fun t => t.mem.read 10 == 5 && t.mem.read 0 == 0x070A && t.mar == 10 && t.mdr == 5) = true := by
  decide

/-- DM14. -/
theorem test_sto_long :
    holds (step (place [0x8700, 0x012C] { big with acc := 0x1234 }))
      (fun t => t.mem == [(0, 0x8700), (1, 0x012C), (300, 0x1234)]) = true := by decide

/-- AR1 and AR3. -/
theorem test_add_imm :
    holds (step (place [0x0803] { small with acc := 5 }))
      (fun t => t.acc == 8 && t.alu == ⟨5, 3, some .add, 8, false, false, false, false⟩
        && t.flag == 0) = true ∧
    holds (step (place [0x0801] { small with acc := 0x7FFF }))
      (fun t => t.acc == 0x8000 && t.alu.n && t.alu.v && !t.alu.c) = true := by decide

/-- AR4. -/
theorem test_add_direct :
    holds (step (place [0x0909, 0, 0, 0, 0, 0, 0, 0, 0, 0x8000] { small with acc := 0x8000 }))
      (fun t => t.acc == 0 && t.alu.z && t.alu.c && t.alu.v) = true := by decide

/-- AR12. -/
theorem test_add_long :
    holds (step (place [0x8800, 0x03E8] { small with acc := 1 }))
      (fun t => t.acc == 1001 && t.pc == 2) = true := by decide

/-- AR5 and AR7. -/
theorem test_sub :
    holds (step (place [0x0A08] { small with acc := 3 }))
      (fun t => t.acc == 0xFFFB && t.alu.n && t.alu.c) = true ∧
    holds (step (place [0x0B04, 0, 0, 0, 10] { small with acc := 10 }))
      (fun t => t.acc == 0 && t.alu.z) = true := by decide

/-- AR8 to AR11. -/
theorem test_inc_dec :
    holds (step (place [0x0C00] { small with acc := 0xFFFF, flag := 1 }))
      (fun t => t.acc == 0 && t.flag == 1 && t.alu == AluLatch.cleared) = true ∧
    holds (step (place [0x0D00] { small with ix := 0xFFFF })) (fun t => t.ix == 0) = true ∧
    holds (step (place [0x0E00] small)) (fun t => t.acc == 0xFFFF && t.flag == 0) = true ∧
    holds (step (place [0x0F00] small)) (fun t => t.ix == 0xFFFF) = true := by decide

/-- CB2 and CB3. -/
theorem test_cmp_imm :
    holds (step (place [0x1105] { small with acc := 5 }))
      (fun t => t.flag == 1 && t.acc == 5 && t.alu.result == 0 && t.alu.z) = true ∧
    holds (step (place [0x1105] { small with acc := 6, flag := 1 }))
      (fun t => t.flag == 0 && t.acc == 6 && t.alu.result == 1) = true := by decide

/-- CB4, and CB5 with the address 3. -/
theorem test_cmp_long_and_direct :
    holds (step (place [0x9100, 0xFFFF] { small with acc := 0xFFFF })) (fun t => t.flag == 1) = true ∧
    holds (step (place [0x1203, 0, 0, 9] { small with acc := 9 })) (fun t => t.flag == 1) = true := by
  decide

/-- CB6. -/
theorem test_cmi :
    holds (step { big with mem := [(0, 0x130D), (13, 300), (300, 0x1234)], acc := 0x23CF })
      (fun t => t.flag == 0 && t.alu.result == 0x119B && t.mar == 300 && t.acc == 0x23CF) = true := by
  decide

/-- CB1, CB7, CB8 (at address 4), CB9. -/
theorem test_jumps :
    holds (step (place [0x1000] small)) (fun t => t.pc == 0) = true ∧
    holds (step (place [0x1420] { small with flag := 1 })) (fun t => t.pc == 32) = true ∧
    holds (step (place [0, 0, 0, 0, 0x1420] { small with pc := 4 })) (fun t => t.pc == 5) = true ∧
    holds (step (place [0x1504] small)) (fun t => t.pc == 4) = true := by decide

/-- CB11, and JPN not taken (CB10). -/
theorem test_jumps_long :
    holds (step (place [0x9400, 0x012C] { small with flag := 1 })) (fun t => t.pc == 300) = true ∧
    holds (step (place [0x1504] { small with flag := 1 })) (fun t => t.pc == 1) = true := by decide

/-- LS1, LS3, LS4. -/
theorem test_logic :
    holds (step (place [0x16FF] { small with acc := 0xF0F0 })) (fun t => t.acc == 0x00F0) = true ∧
    holds (step (place [0x180F] { small with acc := 0xF000 }))
      (fun t => t.acc == 0xF00F && t.alu.n) = true ∧
    holds (step (place [0x1B02, 0, 0x1234] { small with acc := 0x1234 }))
      (fun t => t.acc == 0 && t.alu.z && !t.alu.c) = true := by decide

/-- LS5, LS6, LS9. -/
theorem test_xor_long_and_shifts :
    holds (step (place [0x9A00, 0x8001] { small with acc := 0xFFFF })) (fun t => t.acc == 0x7FFE) = true ∧
    holds (step (place [0x1C0F] { small with acc := 1 }))
      (fun t => t.acc == 0x8000 && t.alu.n && !t.alu.c) = true ∧
    holds (step (place [0x9D00, 0x012C] { small with acc := 0xFFFF })) (fun t => t.acc == 0) = true := by
  decide

/-- IO1, and W2: the value 70000 is wrapped. -/
theorem test_in :
    holds (step (place [0x1E00] { small with inq := [72, 105] }))
      (fun t => t.acc == 72 && t.inq == [105]) = true ∧
    holds (step (place [0x1E00] { small with inq := [70000] })) (fun t => t.acc == 0x1170) = true := by
  decide

/-- IO2: blocked in EXECUTE, then the value arrives. -/
theorem test_in_blocked :
    holds (step (place [0x1E00] small))
      (fun t => t.phase == .execute && t.k == 0 && t.pc == 1
        && holds (step (t.pushInput 65)) (fun u => u.acc == 65 && u.atBoundary)) = true := by decide

/-- IO3 and IO4. -/
theorem test_out_end :
    holds (step (place [0x1F00] { small with acc := 105, outq := [1] }))
      (fun t => t.outq == [1, 105]) = true ∧
    holds (step (place [0, 0, 0, 0, 0, 0, 0, 0, 0, 0, 0, 0, 0x2000] { small with pc := 12 }))
      (fun t => t.phase == .halt && t.pc == 13 && t.err == none && t.k == 0) = true := by decide

/-- ER1 and ER5. -/
theorem test_out_of_bounds_in_execute :
    holds (step (place [0x0214] small))
      (fun t => t.err == some (.addressOutOfBounds 20) && t.phase == .halt && t.mar == 20
        && t.mdr == 0x0214 && t.acc == 0 && t.pc == 1) = true ∧
    holds (step (place [0x07C8] { small with acc := 7 }))
      (fun t => t.err == some (.addressOutOfBounds 200) && t.mdr == 7
        && t.mem == [(0, 0x07C8)]) = true := by decide

/-- ER2 (the second instruction), ER3 (its FETCH) and ER4. -/
theorem test_errors_in_fetch_and_decode :
    holds (step { small with pc := 1, acc := 1 })
      (fun t => t.err == some (.unknownOpcode 0 0) && t.phase == .halt && t.pc == 2 && t.acc == 1) = true ∧
    holds (step { State.create 4 with pc := 9 })
      (fun t => t.err == some (.addressOutOfBounds 9) && t.pc == 9 && t.mar == 9) = true ∧
    holds (step (place [0x8100] (State.create 1)))
      (fun t => t.err == some (.addressOutOfBounds 1) && t.pc == 1 && t.mar == 1 && t.operand == 0) = true := by
  decide

/-- The counts of section 2.2: 6 calls for `LDM #5`, 10 for `LDM &1234`. -/
theorem test_step_counts : stepCount (.ldmS 5) = 6 ∧ stepCount (.ldmL 0x1234) = 10 := by decide

/-- LD2: a refused load. -/
theorem test_load_refused : small.load [1, 2, 3] 14 = .addressOutOfBounds 16 := by decide

/-- A load that gives no start starts at 0 (R331). -/
theorem test_load_default_start :
    holds (State.act { small with pc := 9, acc := 1 } (.load [0x2000]))
      (fun t => t.pc == 0 && t.acc == 0 && t.mem == [(0, 0x2000)]) = true := by decide

/-! ### The assembler (sections 1 and 2.11) -/

/-- AS8, AS10: the entry a line selects and its operand value. -/
theorem test_parse_accepts :
    parseLine "inc acc".toList = .ok (.instr none (Instr.incAcc 0).entry .none) ∧
    parseLine "LDM B101".toList = .ok (.instr none (Instr.ldmS 0).entry (.value 5)) ∧
    parseLine "LDM &1F".toList = .ok (.instr none (Instr.ldmS 0).entry (.value 31)) ∧
    parseLine "LDM #-2".toList = .ok (.instr none (Instr.ldmL 0).entry (.value 0xFFFE)) ∧
    parseLine "A2:   - &FF".toList = .ok (.data "A2".toList 255) := ⟨rfl, rfl, rfl, rfl, rfl⟩

/-- AS1 to AS5, and the last line of AS10. -/
theorem test_parse_rejects :
    parseLine "LDM 5".toList = .error .malformedLine ∧
    parseLine "FOO 3".toList = .error .unknownOpcode ∧
    parseLine "LDM #&12".toList = .error .invalidLiteral ∧
    parseLine "LDM B102".toList = .error .invalidLiteral ∧
    parseLine "LDM #70000".toList = .error .operandOutOfRange ∧
    parseLine "LDM 0".toList = .error .malformedLine := ⟨rfl, rfl, rfl, rfl, rfl, rfl⟩

/-- AS6: a duplicate label in the line at the cursor. -/
theorem test_duplicate_label :
    ((AsmState.step { AsmState.new [] with phase := .pass1, trimmed := [(2, "X: END".toList)],
                                           symbols := [("X".toList, .instr 0)] } 16 []).1.err.map
      (fun e => (e.kind, e.line))) = some (.duplicateLabel, 2) := by decide

/-- W8: an undefined label in PASS2 writes nothing. -/
theorem test_undefined_label :
    let a := { AsmState.new [] with phase := .pass2, trimmed := [(2, "JMP NOWHERE".toList)],
                                    info := [.instr 1 1 (Instr.jmpS 0).entry] }
    (a.step 16 [(0, 0x0101)]).1.err
        = some ⟨.undefinedLabel, 2, .text "NOWHERE".toList⟩ ∧
      (a.step 16 [(0, 0x0101)]).2 = [(0, 0x0101)] := by decide

/-! ### Witnesses: concrete states and operands that meet a statement's hypotheses -/

theorem witness_DecodeEncodeRoundTrip :
    (Instr.ldmS 0).wf = true ∧ (Instr.stop 255).wf = true ∧ (Instr.lsrL 0xFFFF).wf = true := by decide

theorem witness_EncodeDecodeKeepsEveryReadBit :
    decode [0x0105, 9] = .ok (.ldmS 5, [9]) ∧ decode [0x9DFF, 0xFFFF] = .ok (.lsrL 0xFFFF, []) :=
  ⟨rfl, rfl⟩

theorem witness_LengthFollowsFromTheFirstWord :
    decode [0x9D00, 1, 2] = .ok (.lsrL 1, [2]) ∧ decode [0x9D00, 3] = .ok (.lsrL 3, []) :=
  ⟨rfl, rfl⟩

theorem witness_ReservedBitsHaveNoEffect :
    opcodeField 0x8100 = opcodeField 0x81FF ∧ (0x8100 : Word).getLsbD 15 = true ∧
      decode [0x8100, 7] = .ok (.ldmL 7, []) := ⟨rfl, rfl, rfl⟩

/-- A state at DECODE step 0 with an illegal word in CIR. -/
def badWord (cir : Word) : State := { small with phase := .decode, cir := cir }

theorem witness_UnknownOpcodeIsRaisedByTheLookupAlone :
    [(0x0000 : Word), 0x2100, 0x7FFF, 0x8000, 0x8600, 0x8C00, 0x8FFF, 0x9E00, 0xFFFF].all
      (fun w => (lookupEntry (opcodeField w)).isNone) = true ∧
    (∀ w, (badWord w).phase = .decode ∧ (badWord w).k = 0 ∧ (badWord w).cir = w) ∧
    (badWord 0x2100).err = none ∧
    holds (badWord 0x2100).rtnStep (fun t => t.err == some (.unknownOpcode 0x21 0x2100)) = true :=
  ⟨by decide, fun _ => ⟨rfl, rfl, rfl⟩, rfl, by decide⟩

/-- FETCH step 1 with MAR at the first address past the end. -/
def fetchPastEnd : State := { small with k := 1, mar := 16 }

/-- EXECUTE at the memory step of LDD and of STO, and DECODE step 2, with MAR 16. -/
def executePastEnd (i : Instr) (k : Nat) : State :=
  { small with phase := .execute, k := k, inst := some i.entry, mar := 16 }

theorem witness_AddressOutOfBoundsIsRaisedByMemoryStepsAlone :
    (fetchPastEnd.accessesMemory ∧ fetchPastEnd.memSize ≤ fetchPastEnd.mar.toNat) ∧
    (State.accessesMemory { small with phase := .decode, k := 2, mar := 16 }) ∧
    (executePastEnd (.lddS 16) 1).accessesMemory ∧ (executePastEnd (.stoS 16) 2).accessesMemory ∧
    ∃ t, fetchPastEnd.rtnStep = .next t ∧ fetchPastEnd.err = none ∧
      t.err = some (.addressOutOfBounds 16) :=
  ⟨⟨.inl ⟨rfl, rfl⟩, by decide⟩, .inr (.inl ⟨rfl, rfl⟩),
    .inr (.inr ⟨rfl, _, _, rfl, rfl, .inl rfl⟩), .inr (.inr ⟨rfl, _, _, rfl, rfl, .inr rfl⟩),
    _, rfl, rfl, rfl⟩

theorem witness_RaisingStepChangesOnlyErrAndPhase :
    ∃ t, (executePastEnd (.stoS 16) 2).rtnStep = .next t ∧ (executePastEnd (.stoS 16) 2).err = none ∧
      t.err = some (.addressOutOfBounds 16) := ⟨_, rfl, rfl, rfl⟩

/-- Each clause: PC past the end, an unknown opcode, a missing operand word, an error in EXECUTE. -/
theorem witness_FaultingAddressIsRecoverable :
    (∃ t, step { small with pc := 16 } = .next t ∧ t.err ≠ none ∧
      State.inBounds { small with pc := 16 } 16 = false) ∧
    (∃ t, step { small with pc := 15 } = .next t ∧ t.err = some (.unknownOpcode 0 0)) ∧
    (∃ t, step (place [0x8100] (State.create 1)) = .next t ∧ t.err ≠ none ∧
      lookupEntry (opcodeField ((place [0x8100] (State.create 1)).word 0)) = some (Instr.ldmL 0).entry ∧
      (place [0x8100] (State.create 1)).inBounds 1 = false) ∧
    (∃ t, step (place [0x0210] small) = .next t ∧ t.err ≠ none ∧
      t.inst = some (Instr.lddS 16).entry ∧
      decode (place [0x0210] small).fetchWords = .ok (.lddS 16, [0]) ∧
      (place [0x0210] small).fetchInBounds .short = true) :=
  ⟨⟨_, rfl, by decide, rfl⟩, ⟨_, rfl, rfl⟩, ⟨_, rfl, by decide, rfl, rfl⟩,
    ⟨_, rfl, by decide, rfl, rfl, rfl⟩⟩

theorem witness_HaltIsLeftOnlyByLoad :
    let s := { small with phase := .halt, err := some (.addressOutOfBounds 16) }
    s.phase = .halt ∧
    (∃ t, s.acts [.cpuStep, .pushInput 3, .newAssembler ["END".toList], .asmStep] = .next t) ∧
    ([HostAction.cpuStep, .pushInput 3, .asmStep].all (fun a => !a.isLoad) = true) ∧
    ∃ t, s.load [0x2000] 15 = .loaded t := ⟨rfl, ⟨_, rfl⟩, rfl, _, rfl⟩

theorem witness_CreationSatisfiesTheInvariant : 1 ≤ 1 ∧ 65536 ≤ 65536 := by decide

/-- A state that is not the reset state and meets the invariant. -/
theorem inv_of_small (i : Instr) (hi : i.entry ∈ catalog) (h0 : 0 < i.entry.rtn.length) :
    State.Inv { small with phase := .execute, inst := some i.entry, flag := 1, mem := [(3, 7)] } where
  sizePos := show 1 ≤ 16 by decide
  sizeMax := show 16 ≤ 65536 by decide
  memWf := rfl
  memWithin := rfl
  flagReserved := show decide ((1 : BitVec 8) &&& 0xFE = 0) = true by decide
  instKnown := by rintro e he; cases he; exact hi
  control := ⟨_, rfl, h0⟩
  errHalts := fun h => absurd rfl h

theorem witness_StepKeepsTheInvariant :
    State.Inv { small with phase := .execute, inst := some (Instr.ldiS 3).entry, flag := 1,
                           mem := [(3, 7)] } := inv_of_small (.ldiS 3) (by decide) (by decide)

theorem witness_HostActionsKeepTheInvariant :
    State.Inv { small with phase := .execute, inst := some (Instr.input 0).entry, flag := 1,
                           mem := [(3, 7)] } := inv_of_small (.input 0) (by decide) (by decide)

theorem witness_StepIsABoundedRunOfRtnSteps :
    State.Inv { small with phase := .execute, inst := some (Instr.stoL 15).entry, flag := 1,
                           mem := [(3, 7)] } := inv_of_small (.stoL 15) (by decide) (by decide)

/-- The longest instruction and the shortest. -/
theorem witness_InstructionTakesItsStepCount :
    (let s := place [0x8300, 2, 3, 7] small
     s.atBoundary = true ∧ decode s.fetchWords = .ok (.ldiL 2, []) ∧ s.fetchInBounds .long = true ∧
      ∃ t, exec (.ldiL 2) (s.fetched .long) = .next t ∧ s.err = none ∧ t.err = none) ∧
    (let s := place [0x1E00] { small with inq := [3] }
     s.atBoundary = true ∧ decode s.fetchWords = .ok (.input 0, [0]) ∧ s.fetchInBounds .short = true ∧
      s.inq ≠ [] ∧ ∃ t, exec (.input 0) (s.fetched .short) = .next t ∧ t.err = none) :=
  ⟨⟨rfl, rfl, rfl, _, rfl, rfl, rfl⟩, ⟨rfl, rfl, rfl, by decide, _, rfl, rfl⟩⟩

/-- An instruction in the last word of memory, and a long one in the last two. -/
theorem witness_StepRunsTheDecodedInstruction :
    (let s := { small with pc := 15, mem := [(15, 0x0105)] }
     s.atBoundary = true ∧ decode s.fetchWords = .ok (.ldmS 5, [0]) ∧ s.fetchInBounds .short = true) ∧
    (let s := { small with pc := 14, mem := [(14, 0x8100), (15, 0x1234)] }
     s.atBoundary = true ∧ decode s.fetchWords = .ok (.ldmL 0x1234, []) ∧
      s.fetchInBounds .long = true) := ⟨⟨rfl, rfl, rfl⟩, ⟨rfl, rfl, rfl⟩⟩

/-- Each clause, MAR at the last address of memory and at the first past it. -/
theorem witness_FetchStepsFollowTheRules :
    small.phase = .fetch ∧ small.k = 0 ∧
    (let s := { small with k := 1, mar := 15 }; s.phase = .fetch ∧ s.mar.toNat < s.memSize) ∧
    (let s := { small with k := 1, mar := 16 }; s.phase = .fetch ∧ s.memSize ≤ s.mar.toNat) ∧
    (let s := { small with k := 2, pc := 0xFFFF }; s.phase = .fetch ∧ s.k = 2) := by decide

theorem witness_DecodeStepsFollowTheRules :
    (let s := { small with k := 3 }; s.phase = .fetch ∧ s.k = 3) ∧
    (let s := { small with phase := .decode, cir := 0x01FF }
     s.k = 0 ∧ (Instr.ldmS 0).entry ∈ catalog ∧ opcodeField s.cir = (Instr.ldmS 0).entry.opcode) ∧
    (let s := { small with phase := .decode, cir := 0x9DFF }
     s.k = 0 ∧ (Instr.lsrL 0).entry ∈ catalog ∧ opcodeField s.cir = (Instr.lsrL 0).entry.opcode) ∧
    (let s := { small with phase := .decode, k := 2, mar := 15 }; s.mar.toNat < s.memSize) ∧
    (let s := { small with phase := .decode, k := 2, mar := 16 }; s.memSize ≤ s.mar.toNat) ∧
    (let s := { small with phase := .decode, k := 1 }; s.phase = .decode ∧ s.k = 1) ∧
    (let s := { small with phase := .decode, k := 3 }; s.phase = .decode ∧ s.k = 3) ∧
    (let s := { small with phase := .decode, k := 4 }; s.phase = .decode ∧ s.k = 4) := by decide

/-- A program that ends at the last word of memory, one word too many, and an empty one. -/
theorem witness_LoadStartsAFreshRun :
    small.mem.wf = true ∧ (14 : Word).toNat + [(1 : Word), 2].length ≤ small.memSize ∧
      (16 : Word).toNat + ([] : List Word).length ≤ small.memSize := by decide

theorem witness_LoadPastTheEndIsRefused :
    small.memSize < (14 : Word).toNat + [(1 : Word), 2, 3].length ∧
      small.memSize < (16 : Word).toNat + [(1 : Word)].length := by decide

theorem witness_ReadAfterWrite : Memory.wf [(3, 7), (15, 1)] = true := by decide

theorem witness_EqualReadsMeanEqualMemory :
    Memory.wf [(3, 7)] = true ∧ Memory.wf (Memory.write [(3, 7), (5, 1)] 5 0) = true ∧
      ∀ a, Memory.read [(3, 7)] a = Memory.read (Memory.write [(3, 7), (5, 1)] 5 0) a :=
  ⟨rfl, rfl, fun _ => rfl⟩

/-- STO completes, and so does an instruction that stores nothing. -/
theorem witness_OnlyStoWritesMemory :
    (∃ t, exec (.stoS 15) { small with acc := 7 } = .next t ∧ t.mem = [(15, 7)]) ∧
    (Instr.stoS 15).entry.mnemonic = .sto ∧ (Instr.lddS 15).entry.mnemonic ≠ .sto ∧
    ∃ t, exec (.lddS 15) small = .next t := ⟨⟨_, rfl, rfl⟩, rfl, by decide, _, rfl⟩

theorem witness_OnlyComparesWriteFlag :
    (∃ t, exec (.cmpImmS 7) { small with acc := 7 } = .next t ∧ t.flag = 1) ∧
    (∃ t, exec (.ldmS 7) small = .next t) ∧
    (Instr.ldmS 7).entry.mnemonic ∉ [Mnemonic.cmp, .cmi] ∧
    (Instr.ldmS 7).entry.mnemonic ∉ [Mnemonic.add, .sub, .cmp, .cmi, .and, .or, .xor, .lsl, .lsr] :=
  ⟨⟨_, rfl, rfl⟩, ⟨_, rfl⟩, by decide, by decide⟩

theorem witness_OnlyJumpsWriteThePc :
    (∃ t, exec (.jmpS 7) small = .next t ∧ t.pc = 7) ∧ (∃ t, exec (.addImmS 7) small = .next t) ∧
    (Instr.addImmS 7).entry.mnemonic ∉ [Mnemonic.jmp, .jpe, .jpn] :=
  ⟨⟨_, rfl, rfl⟩, ⟨_, rfl⟩, by decide⟩

theorem witness_AccAndIxHaveTheirWriters :
    (∃ t, exec (.cmpImmS 7) small = .next t) ∧ (∃ t, exec (.ldrS 7) small = .next t ∧ t.ix = 7) ∧
    (Instr.cmpImmS 7).entry.mnemonic ∉ [Mnemonic.ldm, .ldd, .ldi, .ldx, .add, .sub, .and, .or, .xor,
      .lsl, .lsr, .incAcc, .decAcc, .input] ∧
    (Instr.cmpImmS 7).entry.mnemonic ∉ [Mnemonic.ldr, .movIx, .incIx, .decIx] :=
  ⟨⟨_, rfl⟩, ⟨_, rfl, rfl⟩, by decide, by decide⟩

theorem witness_QueuesAndCirHaveTheirWriters :
    (∃ t, exec (.input 0) { small with inq := [3, 4] } = .next t ∧ t.inq = [4]) ∧
    (∃ t, exec (.output 0) { small with acc := 9 } = .next t ∧ t.outq = [9]) :=
  ⟨⟨_, rfl, rfl⟩, ⟨_, rfl, rfl⟩⟩

theorem witness_AluLatchIsNeverRead :
    ∃ t, (place [0x0803] small).rtnRun 6 = .next t ∧ t.acc = 3 := ⟨_, rfl, rfl⟩

theorem witness_AluSubtractionAndCompare :
    AluOp.subtract ∈ [AluOp.subtract, AluOp.compare] ∧ AluOp.compare ∈ [AluOp.subtract, AluOp.compare] := by
  decide

theorem witness_AluLogicWorksBitByBit : 0 < 16 ∧ 15 < 16 := by decide

theorem witness_AluShiftsScaleByPowersOfTwo : 16 ≤ (16 : Word).toNat ∧ 16 ≤ (0xFFFF : Word).toNat := by
  decide

/-! Both clauses of a direct or indexed operand: the last address of memory, the first past it. -/

theorem witness_LddLoadsTheDirectWord :
    (15 : Word).toNat < small.memSize ∧ small.memSize ≤ (16 : Word).toNat := by decide

theorem witness_LdiLoadsThroughThePointer :
    (let s := { small with mem := [(15, 14)] }
     (15 : Word).toNat < s.memSize ∧ (s.word 15).toNat < s.memSize) ∧
    small.memSize ≤ (16 : Word).toNat ∧
    (let s := { small with mem := [(15, 16)] }
     (15 : Word).toNat < s.memSize ∧ s.memSize ≤ (s.word 15).toNat) := by decide

theorem witness_LdxLoadsTheIndexedWord :
    (let s := { small with ix := 5 }
     (15 : Word) = BitVec.ofNat 16 (((10 : Word).toNat + s.ix.toNat) % 65536) ∧
      (15 : Word).toNat < s.memSize) ∧
    (let s := { small with ix := 6 }
     (16 : Word) = BitVec.ofNat 16 (((10 : Word).toNat + s.ix.toNat) % 65536) ∧
      s.memSize ≤ (16 : Word).toNat) := by decide

theorem witness_StoStoresTheAccumulator :
    (15 : Word).toNat < small.memSize ∧ small.memSize ≤ (16 : Word).toNat ∧ small.mem.wf = true := by
  decide

theorem witness_AddAddsTheOperand :
    (15 : Word).toNat < small.memSize ∧ small.memSize ≤ (16 : Word).toNat := by decide

theorem witness_SubSubtractsTheOperand :
    (15 : Word).toNat < small.memSize ∧ small.memSize ≤ (16 : Word).toNat := by decide

theorem witness_CmpComparesTheOperand :
    (15 : Word).toNat < small.memSize ∧ small.memSize ≤ (16 : Word).toNat := by decide

theorem witness_CmiComparesThroughThePointer :
    (let s := { small with mem := [(15, 14)] }
     (15 : Word).toNat < s.memSize ∧ (s.word 15).toNat < s.memSize) ∧
    small.memSize ≤ (16 : Word).toNat ∧
    (let s := { small with mem := [(15, 16)] }
     (15 : Word).toNat < s.memSize ∧ s.memSize ≤ (s.word 15).toNat) := by decide

theorem witness_LogicDirectsUseTheAlu :
    (15 : Word).toNat < small.memSize ∧ small.memSize ≤ (16 : Word).toNat := by decide

theorem witness_InTakesTheHeadOfTheQueue :
    (let s := { small with inq := [3, 4] }; s.inq = 3 :: [4]) ∧ small.inq = [] := by decide

theorem witness_EndHaltsTheMachine :
    small.err = none ∧ ∃ t, exec (.stop 0) small = .next t := ⟨rfl, _, rfl⟩

theorem witness_BlockedInWaitsForAPush :
    State.blockedAtIn { small with phase := .execute, inst := some (Instr.input 0).entry } :=
  ⟨rfl, rfl, _, rfl, rfl⟩

/-! ### Witnesses of the assembler's statements -/

/-- An assembler at an emission whose operand word lies past the end (AS11, at address 1). -/
def emitting : AsmState :=
  { AsmState.new [] with phase := .pass2, trimmed := [(1, "LDM #300".toList)],
                         info := [.instr 1 2 (Instr.ldmL 0).entry] }

theorem witness_FailingAssemblyChangesOnlyErr :
    emitting.err = none ∧
    (emitting.step 2 []).1.err = some ⟨.addressOutOfBounds, 1, .address 1⟩ ∧
    (emitting.step 2 []).2 = [] ∧
    (let a := (emitting.step 2 []).1; State.asm { small with asm := some a } = some a ∧ a.err ≠ none) := by
  decide

/-- AS12: one kept line of three, assembled without error in 8 steps. -/
theorem witness_AssemblerStepCount :
    let lines := ["; comment only".toList, "".toList, "  END ; stop".toList]
    2 * (keptLines lines).length + lines.length + 3 = 8 ∧
    ((small.newAssembler lines).asmRun 8).mem = [(0, 0x2000)] ∧
    (((small.newAssembler lines).asmRun 8).asm.map (fun a => decide (a.phase = .done ∧ a.err = none)))
      = some true ∧
    (((small.newAssembler lines).asmRun 7).asm.map (fun a => decide (a.phase = .done))) = some false := by
  decide

/-- Every addressing mode, at the ends of its range. -/
theorem witness_DisassemblyParsesBack :
    (Instr.ldmS 255).canonical = true ∧ (Instr.ldmL 256).canonical = true ∧
    (Instr.lddS 0).canonical = true ∧ (Instr.ldiL 65535).canonical = true ∧
    (Instr.ldxS 50).canonical = true ∧ (Instr.movIx 0).canonical = true ∧
    (Instr.stop 0).canonical = true := by decide

/-- An assembler that has noted the one line `X: - 7` after `LDM #300`: the data word stands at 2. -/
def laidOut : AsmState :=
  { AsmState.new ["LDM #300".toList, "X: - 7".toList] with
    phase := .pass2
    trimmed := [(1, "LDM #300".toList), (2, "X: - 7".toList)]
    symbols := [("X".toList, .addr 2)]
    instAddr := 2
    dataIndex := 1
    info := [.instr 0 2 (Instr.ldmL 0).entry, .data 2 7] }

/-- An assembler in PASS2 that meets the invariant. -/
theorem witness_AssemblerKeepsItsInvariant : laidOut.Inv where
  labelsUnique := by decide
  cursor := ⟨by decide, rfl⟩
  resolved := fun _ => rfl
  source := rfl
  layout :=
    { notes := by
        intro j n text i ht hi
        match j with
        | 0 =>
          cases ht; cases hi
          exact ⟨.instr none (Instr.ldmL 0).entry (.value 300), rfl, fun _ => rfl,
            fun h => absurd (.inl rfl) h⟩
        | 1 =>
          cases ht; cases hi
          exact ⟨.data "X".toList 7, rfl, fun _ => rfl, fun h => absurd (.inl rfl) h⟩
        | j + 2 => cases ht
      codeCounter := rfl
      dataCounter := rfl
      labels := by
        intro placed h
        obtain rfl := h.mpr (.inl rfl)
        rfl }

/-- PASS1 at a line that parses with a new label, with a used label, that does not parse, and past
the last line. -/
theorem witness_AssemblerKeepsItsInvariant_pass1 :
    let a := { AsmState.new [] with phase := .pass1, trimmed := [(1, "X: - 7".toList)] }
    a.phase = .pass1 ∧ a.err = none ∧ a.trimmed[a.cursor]? = some (1, "X: - 7".toList) ∧
    parseLine "X: - 7".toList = .ok (.data "X".toList 7) ∧ a.symbols = [] ∧
    (∃ r ∈ AsmState.symbols { a with symbols := [("X".toList, .instr 0)] }, r.1 = "X".toList) ∧
    parseLine "FOO 3".toList = .error .unknownOpcode ∧
    a.trimmed[1]? = none :=
  ⟨rfl, rfl, rfl, rfl, rfl, ⟨_, List.mem_singleton_self _, rfl⟩, rfl, rfl⟩

theorem witness_AssemblyDependsOnTheSourceAlone :
    let s := { small with mem := [(3, 7)], acc := 5 }
    s.memSize = small.memSize ∧ s.mem.wf = true ∧ small.mem.wf = true ∧
      s.mem.read 4 = small.mem.read 4 := by decide

theorem witness_AssemblerEmitsTheEncoding :
    (Instr.stoS 255).wf = true ∧ (Instr.stoL 0).wf = true := by decide

/-- PASS2 at an instruction line, at a data line and past the last line; both lines fit when MEM_SIZE
is 3, the data word does not when it is 2, and the long form's second word does not when it is 1. -/
theorem witness_AssemblerEmitsTheEncoding_pass2 :
    laidOut.phase = .pass2 ∧ laidOut.err = none ∧ Memory.wf [(3, 7)] = true ∧
    (laidOut.symbols.map (fun r => r.1)).Nodup ∧
    laidOut.trimmed[0]? = some (1, "LDM #300".toList) ∧
    laidOut.info[0]? = some (.instr 0 (Instr.ldmL 0).entry.length.words (Instr.ldmL 0).entry) ∧
    parseLine "LDM #300".toList = .ok (.instr none (Instr.ldmL 0).entry (.value 300)) ∧
    0 + [(0x8100 : Word), 300].length - 1 < 3 ∧ 1 ≤ 0 + [(0x8100 : Word), 300].length - 1 ∧
    laidOut.trimmed[1]? = some (2, "X: - 7".toList) ∧ laidOut.info[1]? = some (.data 2 7) ∧
    2 < 3 ∧ 2 ≤ 2 ∧ laidOut.trimmed[2]? = none :=
  ⟨rfl, rfl, rfl, by decide, rfl, rfl, rfl, by decide, by decide, rfl, rfl, by decide, by decide, rfl⟩

/-- A symbol operand: at the last short address, at the first address too large, and missing. -/
theorem witness_AssemblerEmitsTheEncoding_symbols :
    parseLine "JMP X".toList = .ok (.instr none (Instr.jmpS 0).entry (.symbol "X".toList)) ∧
    ("X".toList, SymVal.addr 255) ∈ [("X".toList, SymVal.addr 255)] ∧ 255 ≤ 255 ∧
    ("X".toList, SymVal.addr 256) ∈ [("X".toList, SymVal.addr 256)] ∧ 255 < 256 ∧
    (∀ r ∈ ([] : List (List Char × SymVal)), r.1 ≠ "X".toList) :=
  ⟨rfl, by decide, by decide, by decide, by decide, by decide⟩

end Sys2Proof.Tests
end

section
/-! The invariant of the machine at CPU creation (00_scope.md R7, 10_state.md R38). -/

namespace Sys2Proof.Machine

/-- The memory that lists no word is canonical. -/
@[simp] theorem Memory.wf_nil : Memory.wf [] = true := rfl

/-- The memory that lists no word is inside every MEM_SIZE. -/
@[simp] theorem Memory.within_nil (n : Nat) : Memory.within n [] = true := rfl

/-- The control unit stands in a step of the spec at every instruction boundary. -/
theorem State.controlLegal_of_boundary {s : State} (hphase : s.phase = .fetch) (hk : s.k = 0) :
    s.controlLegal := by
  rw [State.controlLegal, hphase]
  show s.k < 4
  omega

/-- Only MEM_SIZE needs its range: memory lists no word, FLAG is 0, there is no INST and no ERR, and
the control unit is at an instruction boundary (R38). -/
theorem State.create_inv {n : Nat} (hpos : 1 ≤ n) (hmax : n ≤ 65536) : (State.create n).Inv where
  sizePos := hpos
  sizeMax := hmax
  memWf := Memory.wf_nil
  memWithin := Memory.within_nil n
  flagReserved := decide_eq_true BitVec.zero_and
  instKnown _ hinst := nomatch hinst
  control := State.controlLegal_of_boundary rfl rfl
  errHalts herr := absurd rfl herr

/-- The reset state is the creation with the default MEM_SIZE, which is in the range of R7. -/
theorem State.reset_inv : State.reset.Inv :=
  State.create_inv (n := Config.defaultMemSize) (by decide) (by decide)

/-- Settles O12: the range of MEM_SIZE is all that the invariant asks of a creation. -/
theorem creationSatisfiesTheInvariant : Obligations.CreationSatisfiesTheInvariant :=
  ⟨State.reset_inv, fun _ hpos hmax => State.create_inv hpos hmax⟩

end Sys2Proof.Machine
end

section
/-! What the RTN steps of EXECUTE may write, and from it what an instruction leaves unchanged
(10_state.md R22 to R31, 40_control_unit.md R108, R109). -/

namespace Sys2Proof

open Machine

/-! ### The rows of the catalog -/

/-- The lookup answers rows of the catalog alone (R106). -/
theorem lookupEntry_mem_catalog {op : Byte} {e : CatalogEntry} (h : lookupEntry op = some e) :
    e ∈ catalog := by
  obtain ⟨f, hf, rfl⟩ := Option.map_eq_some_iff.mp h
  exact List.mem_map_of_mem (List.mem_of_find?_eq_some hf)

/-- The lookup finds the row of every instruction by its opcode (R75). -/
theorem Instr.lookupEntry_opcode (i : Instr) : lookupEntry i.entry.opcode = some i.entry := by
  cases i <;> rfl

/-- Every instruction has a row in the catalog (R75, R123). -/
theorem Instr.entry_mem_catalog (i : Instr) : i.entry ∈ catalog :=
  lookupEntry_mem_catalog i.lookupEntry_opcode

end Sys2Proof

namespace Sys2Proof.Machine

/-! ### What one RTN step may write -/

/-- The elements of the state that an RTN step can write (R109). -/
inductive Element where
  | pc | mar | mdr | acc | ix | flag | latch | mem | inq | outq
deriving DecidableEq

/-- The element that a simple transfer writes. -/
def TransferDst.element : TransferDst → Element
  | .acc => .acc
  | .ix => .ix
  | .mar => .mar
  | .mdr => .mdr
  | .pc => .pc

/-- The element that register arithmetic writes. -/
def CountReg.element : CountReg → Element
  | .acc => .acc
  | .ix => .ix

/-- The elements that an RTN step of each kind may write (R109, R112); `RtnStep.run_frame` ties it
to the step's effect. -/
def RtnStep.written : RtnStep → List Element
  | .transfer dst _ => [dst.element]
  | .indexAddr => [.mar]
  | .memRead => [.mdr]
  | .memWrite => [.mem]
  | .alu .compare _ => [.flag, .latch]
  | .alu _ _ => [.acc, .latch]
  | .regInc r => [r.element]
  | .regDec r => [r.element]
  | .condTransfer _ => [.pc]
  | .inPop => [.acc, .inq]
  | .outPush => [.outq]
  | .halt => []

/-- Every element outside `w` has the same value in both states; MAR and MDR are left out. -/
structure State.Frame (w : List Element) (s t : State) : Prop where
  pc : .pc ∉ w → t.pc = s.pc
  acc : .acc ∉ w → t.acc = s.acc
  ix : .ix ∉ w → t.ix = s.ix
  flag : .flag ∉ w → t.flag = s.flag
  alu : .latch ∉ w → t.alu = s.alu
  mem : .mem ∉ w → t.mem = s.mem
  inq : .inq ∉ w → t.inq = s.inq
  outq : .outq ∉ w → t.outq = s.outq

theorem State.setDst_frame (s : State) (d : TransferDst) (v : Word) :
    State.Frame [d.element] s (s.setDst d v) := by
  cases d <;> constructor <;> simp [TransferDst.element]

theorem State.setCountReg_frame (s : State) (r : CountReg) (v : Word) :
    State.Frame [r.element] s (s.setCountReg r v) := by
  cases r <;> constructor <;> simp [CountReg.element]

/-- Compare writes FLAG and the latch, the other operations ACC and the latch (R112). -/
theorem State.aluStep_frame (s : State) (op : AluOp) (v : Word) (b : AluSrc) :
    State.Frame (RtnStep.alu op b).written s (s.aluStep op v) := by
  by_cases h : op = .compare
  · subst h
    rw [State.aluStep_compare]
    constructor <;> simp [RtnStep.written, State.withCompare]
  · rw [State.aluStep_eq_withAlu s v h]
    constructor <;> simp [RtnStep.written, State.withAlu]

/-- A completed RTN step changes no element outside `RtnStep.written`. -/
theorem RtnStep.run_frame {r : RtnStep} {s t : State} (h : r.run s = .done t) :
    State.Frame r.written s t := by
  cases r with
  | transfer d src => obtain rfl := RtnResult.done.inj h; exact s.setDst_frame d _
  | indexAddr => obtain rfl := RtnResult.done.inj h; constructor <;> simp
  | memRead =>
    rcases s.readMar_cases with ⟨_, hr⟩ | ⟨_, hr⟩ <;> rw [RtnStep.run, hr] at h
    · obtain rfl := RtnResult.done.inj h; constructor <;> simp
    · cases h
  | memWrite =>
    rcases s.writeMar_cases with ⟨_, hr⟩ | ⟨_, hr⟩ <;> rw [RtnStep.run, hr] at h
    · obtain rfl := RtnResult.done.inj h; constructor <;> simp [RtnStep.written]
    · cases h
  | alu op b => obtain rfl := RtnResult.done.inj h; exact s.aluStep_frame op _ b
  | regInc r => obtain rfl := RtnResult.done.inj h; exact s.setCountReg_frame r _
  | regDec r => obtain rfl := RtnResult.done.inj h; exact s.setCountReg_frame r _
  | condTransfer want =>
    obtain rfl := RtnResult.done.inj h
    by_cases hw : s.flagE = want <;> constructor <;> simp [RtnStep.written, hw]
  | inPop =>
    rcases s.popInput_cases with ⟨_, hr⟩ | ⟨v, q, _, hr⟩ <;> rw [RtnStep.run, hr] at h
    · cases h
    · obtain rfl := RtnResult.done.inj h; constructor <;> simp [RtnStep.written]
  | outPush => obtain rfl := RtnResult.done.inj h; constructor <;> simp [RtnStep.written]
  | halt => obtain rfl := RtnResult.done.inj h; constructor <;> simp

/-- The RTN steps that write PC in EXECUTE: JMP's, JPE's and JPN's (R190, R194, R195). -/
def jumpSteps : List RtnStep := [.transfer .pc .operand, .condTransfer true, .condTransfer false]

/-- Of the RTN step kinds only compare writes FLAG (R112). -/
theorem RtnStep.flag_mem_written {r : RtnStep} (h : .flag ∈ r.written) :
    ∃ b, r = .alu .compare b := by
  cases r with
  | alu op b => cases op <;> simp_all [RtnStep.written]
  | transfer d _ => cases d <;> simp [RtnStep.written, TransferDst.element] at h
  | regInc r => cases r <;> simp [RtnStep.written, CountReg.element] at h
  | regDec r => cases r <;> simp [RtnStep.written, CountReg.element] at h
  | _ => simp [RtnStep.written] at h

/-- Of the RTN step kinds only MemWrite writes memory (R56). -/
theorem RtnStep.mem_mem_written {r : RtnStep} (h : .mem ∈ r.written) : r = .memWrite := by
  cases r with
  | memWrite => rfl
  | alu op b => cases op <;> simp [RtnStep.written] at h
  | transfer d _ => cases d <;> simp [RtnStep.written, TransferDst.element] at h
  | regInc r => cases r <;> simp [RtnStep.written, CountReg.element] at h
  | regDec r => cases r <;> simp [RtnStep.written, CountReg.element] at h
  | _ => simp [RtnStep.written] at h

/-- The reserved bits of FLAG survive a write of FLAG.E (R28, D11). -/
theorem State.setFlagE_reserved (s : State) (e : Bool) :
    (s.setFlagE e).flag &&& 0xFE = s.flag &&& 0xFE := by
  have hbit : (if e then 1 else 0 : BitVec Config.flagWidth) &&& 0xFE = 0 := by cases e <;> decide
  rw [State.setFlagE, BitVec.and_or_distrib_right, BitVec.and_assoc, BitVec.and_self, hbit]
  exact BitVec.or_zero

/-- No RTN step changes the reserved bits of FLAG: only compare writes FLAG, and FLAG.E of it. -/
theorem RtnStep.run_flagReserved {r : RtnStep} {s t : State} (h : r.run s = .done t) :
    t.flag &&& 0xFE = s.flag &&& 0xFE := by
  by_cases hw : .flag ∈ r.written
  · obtain ⟨b, rfl⟩ : ∃ b, r = .alu .compare b := RtnStep.flag_mem_written hw
    obtain rfl := RtnResult.done.inj h
    exact State.setFlagE_reserved _ _
  · rw [(RtnStep.run_frame h).flag hw]

/-- A step that writes PC only as a jump does leaves it or gives it OPERAND (R190 to R195). -/
theorem RtnStep.run_pc {r : RtnStep} {s t : State} (h : r.run s = .done t)
    (hr : .pc ∈ r.written → r ∈ jumpSteps) : t.pc = s.pc ∨ t.pc = s.operand := by
  by_cases hw : .pc ∈ r.written
  · have hj := hr hw
    simp only [jumpSteps, List.mem_cons, List.not_mem_nil, or_false] at hj
    rcases hj with rfl | rfl | rfl
    · obtain rfl := RtnResult.done.inj h; exact .inr rfl
    · obtain rfl := RtnResult.done.inj h
      by_cases he : s.flagE = true <;> simp [he]
    · obtain rfl := RtnResult.done.inj h
      by_cases he : s.flagE = false <;> simp [he]
  · exact .inl ((RtnStep.run_frame h).pc hw)

/-! ### What a whole instruction may write -/

/-- An induction over a sequence: what every step of it keeps, and the moves of the control unit
(phase, k, ERR) do not touch, holds where the sequence stops (R108). -/
theorem State.runSteps_induction {P : State → Prop}
    (hctl : ∀ u p k x, P u → P { u with phase := p, k := k, err := x }) {rs : List RtnStep}
    (hrun : ∀ r ∈ rs, ∀ u t, P u → r.run u = .done t → P t) {s : State} (hs : P s)
    (e : CatalogEntry) : P (s.runSteps e rs) := by
  induction rs generalizing s with
  | nil => exact hs
  | cons r rs ih =>
    cases hr : r.run s with
    | done t =>
      have ht : P t := hrun r (by simp) s t hs hr
      rw [State.runSteps_done hr]
      split
      · exact hctl t _ _ _ ht
      · exact ih (fun r' hr' => hrun r' (by simp [hr'])) (hctl t _ _ t.err ht)
    | blocked => rw [State.runSteps_blocked hr]; exact hs
    | raises x => rw [State.runSteps_raises hr]; exact hctl s _ _ _ hs

/-- `State.runSteps_induction` over a whole instruction, from the end of its DECODE. -/
theorem State.execute_induction {P : State → Prop}
    (hctl : ∀ u p k x, P u → P { u with phase := p, k := k, err := x }) {i : Instr}
    (hrun : ∀ r ∈ i.entry.rtn, ∀ u t, P u → r.run u = .done t → P t) {s : State}
    (hs : P (s.latch i)) : P (s.execute i) :=
  State.runSteps_induction hctl hrun hs i.entry

/-- The elements that the steps of an entry may write. -/
def CatalogEntry.written (e : CatalogEntry) : List Element := e.rtn.flatMap RtnStep.written

theorem State.Frame.trans {w w' : List Element} {s u t : State} (hsu : State.Frame w s u)
    (hut : State.Frame w' u t) (hw : w' ⊆ w) : State.Frame w s t where
  pc h := (hut.pc fun h' => h (hw h')).trans (hsu.pc h)
  acc h := (hut.acc fun h' => h (hw h')).trans (hsu.acc h)
  ix h := (hut.ix fun h' => h (hw h')).trans (hsu.ix h)
  flag h := (hut.flag fun h' => h (hw h')).trans (hsu.flag h)
  alu h := (hut.alu fun h' => h (hw h')).trans (hsu.alu h)
  mem h := (hut.mem fun h' => h (hw h')).trans (hsu.mem h)
  inq h := (hut.inq fun h' => h (hw h')).trans (hsu.inq h)
  outq h := (hut.outq fun h' => h (hw h')).trans (hsu.outq h)

/-- An instruction changes no element outside those its steps may write (R108). -/
theorem State.execute_frame (s : State) (i : Instr) :
    State.Frame i.entry.written s (s.execute i) := by
  refine State.execute_induction (P := State.Frame i.entry.written s) ?_ ?_ ?_
  · intro u p k x hu
    exact ⟨hu.pc, hu.acc, hu.ix, hu.flag, hu.alu, hu.mem, hu.inq, hu.outq⟩
  · intro r hr u t hu ht
    exact hu.trans (RtnStep.run_frame ht) fun _ hx => List.mem_flatMap.mpr ⟨r, hr, hx⟩
  · constructor <;> intro _ <;> rfl

/-- The reserved bits of FLAG survive every instruction (R28). -/
theorem State.execute_flagReserved (s : State) (i : Instr) :
    (s.execute i).flag &&& 0xFE = s.flag &&& 0xFE :=
  State.execute_induction (P := fun u => u.flag &&& 0xFE = s.flag &&& 0xFE)
    (fun _ _ _ _ hu => hu) (fun _ _ _ _ hu ht => (RtnStep.run_flagReserved ht).trans hu) rfl

/-- No instruction changes CIR in EXECUTE, MEM_SIZE or the assembler (R25). -/
theorem State.execute_keeps (s : State) (i : Instr) :
    (s.execute i).cir = s.cir ∧ (s.execute i).memSize = s.memSize ∧ (s.execute i).asm = s.asm := by
  refine State.execute_induction
    (P := fun u => u.cir = s.cir ∧ u.memSize = s.memSize ∧ u.asm = s.asm) (fun _ _ _ _ hu => hu) ?_
    ⟨rfl, rfl, rfl⟩
  intro r _ u t hu ht
  obtain ⟨hcir, _, _, _, _, _, hsize, hasm⟩ := RtnStep.run_keeps ht
  rwa [hcir, hsize, hasm]

/-- An instruction whose steps write PC by jumps alone leaves it or gives it its operand (R22). -/
theorem State.execute_pc (s : State) {i : Instr}
    (hi : ∀ r ∈ i.entry.rtn, .pc ∈ r.written → r ∈ jumpSteps) :
    (s.execute i).pc = s.pc ∨ (s.execute i).pc = i.operand := by
  have h : ((s.execute i).pc = s.pc ∨ (s.execute i).pc = i.operand) ∧
      (s.execute i).operand = i.operand := by
    refine State.execute_induction
      (P := fun u => (u.pc = s.pc ∨ u.pc = i.operand) ∧ u.operand = i.operand)
      (fun _ _ _ _ hu => hu) ?_ ⟨.inl rfl, rfl⟩
    rintro r hr u t ⟨hpc, hop⟩ ht
    obtain ⟨_, _, _, _, hop', _⟩ := RtnStep.run_keeps ht
    refine ⟨?_, hop'.trans hop⟩
    rcases RtnStep.run_pc ht (hi r hr) with h | h
    · rwa [h]
    · exact .inr (h.trans hop)
  exact h.1

/-- An instruction that is IN's one step removes at most the head of INQ (R230). -/
theorem State.execute_inPop_inq (s : State) {i : Instr} (hi : i.entry.rtn = [.inPop]) :
    (s.execute i).inq = s.inq.drop 1 := by
  rw [State.execute, hi]
  rcases (s.latch i).popInput_cases with ⟨hq, hr⟩ | ⟨v, q, hq, hr⟩
  · rw [State.runSteps_blocked (r := .inPop) hr, hq]
    exact (congrArg (List.drop 1) hq).symm
  · rw [State.runSteps_done (r := .inPop) hr]
    exact (congrArg (List.drop 1) hq).symm

/-- An instruction that is OUT's one step appends ACC to OUTQ (R232). -/
theorem State.execute_outPush_outq (s : State) {i : Instr} (hi : i.entry.rtn = [.outPush]) :
    (s.execute i).outq = s.outq ++ [s.acc] := by
  rw [State.execute, hi]
  rfl

/-! ### What the rows of the catalog write

Each is a finite check of the 56 rows of R75. -/

theorem catalog_flag_writers : ∀ e ∈ catalog,
    e.mnemonic ∉ [Mnemonic.cmp, .cmi] → .flag ∉ e.written := by decide

theorem catalog_latch_writers : ∀ e ∈ catalog,
    e.mnemonic ∉ [Mnemonic.add, .sub, .cmp, .cmi, .and, .or, .xor, .lsl, .lsr] →
      .latch ∉ e.written := by decide

theorem catalog_pc_writers : ∀ e ∈ catalog,
    e.mnemonic ∉ [Mnemonic.jmp, .jpe, .jpn] → .pc ∉ e.written := by decide

theorem catalog_pc_steps : ∀ e ∈ catalog, ∀ r ∈ e.rtn, .pc ∈ r.written → r ∈ jumpSteps := by decide

theorem catalog_acc_writers : ∀ e ∈ catalog,
    e.mnemonic ∉ [Mnemonic.ldm, .ldd, .ldi, .ldx, .add, .sub, .and, .or, .xor, .lsl, .lsr,
      .incAcc, .decAcc, .input] → .acc ∉ e.written := by decide

theorem catalog_ix_writers : ∀ e ∈ catalog,
    e.mnemonic ∉ [Mnemonic.ldr, .movIx, .incIx, .decIx] → .ix ∉ e.written := by decide

theorem catalog_inq_writers : ∀ e ∈ catalog,
    if e.mnemonic = .input then e.rtn = [.inPop] else .inq ∉ e.written := by decide

theorem catalog_outq_writers : ∀ e ∈ catalog,
    if e.mnemonic = .output then e.rtn = [.outPush] else .outq ∉ e.written := by decide

/-! ### The obligations -/

/-- The next state of an instruction is the end of its EXECUTE. -/
theorem execute_of_exec {i : Instr} {s t : State} (h : exec i s = .next t) : s.execute i = t :=
  Host.Outcome.next.inj ((exec_eq_execute i s).symm.trans h)

/-- Settles O25: FLAG and the latch by the frame of EXECUTE over the catalog's rows, the reserved
bits by induction over the sequence. -/
theorem onlyComparesWriteFlag : Obligations.OnlyComparesWriteFlag := by
  intro i s t h
  obtain rfl := execute_of_exec h
  have hi := i.entry_mem_catalog
  have hframe := s.execute_frame i
  exact ⟨fun hm => hframe.flag (catalog_flag_writers _ hi hm), s.execute_flagReserved i,
    fun hm => hframe.alu (catalog_latch_writers _ hi hm)⟩

/-- Settles O26: the frame of EXECUTE, and the only steps of the catalog that write PC. -/
theorem onlyJumpsWriteThePc : Obligations.OnlyJumpsWriteThePc := by
  intro i s t h
  obtain rfl := execute_of_exec h
  have hi := i.entry_mem_catalog
  exact ⟨fun hm => (s.execute_frame i).pc (catalog_pc_writers _ hi hm),
    s.execute_pc (catalog_pc_steps _ hi)⟩

/-- Settles O27, by the frame of EXECUTE over the catalog's rows. -/
theorem accAndIxHaveTheirWriters : Obligations.AccAndIxHaveTheirWriters := by
  intro i s t h
  obtain rfl := execute_of_exec h
  have hi := i.entry_mem_catalog
  have hframe := s.execute_frame i
  exact ⟨fun hm => hframe.acc (catalog_acc_writers _ hi hm),
    fun hm => hframe.ix (catalog_ix_writers _ hi hm)⟩

/-- Settles O28: the frame of EXECUTE, and the one step each of IN and OUT. -/
theorem queuesAndCirHaveTheirWriters : Obligations.QueuesAndCirHaveTheirWriters := by
  intro i s t h
  obtain rfl := execute_of_exec h
  have hframe := s.execute_frame i
  have hin := catalog_inq_writers _ i.entry_mem_catalog
  have hout := catalog_outq_writers _ i.entry_mem_catalog
  refine ⟨?_, ?_, s.execute_keeps i⟩
  · split at hin
    · next hm => rw [if_pos hm, s.execute_inPop_inq hin]
    · next hm => rw [if_neg hm, hframe.inq hin]
  · split at hout
    · next hm => rw [if_pos hm, s.execute_outPush_outq hout]
    · next hm => rw [if_neg hm, hframe.outq hout]

/-- Settles O11: creation gives every element its value; memory lists no word, so it reads 0
everywhere (R38, R50). -/
theorem resetIsTheCreationState : Obligations.ResetIsTheCreationState := by
  have hmem : ∀ a, State.reset.mem.read a = 0 := fun _ => rfl
  exact ⟨rfl, rfl, rfl, rfl, rfl, rfl, rfl, rfl, rfl, rfl, rfl, rfl, rfl, rfl, hmem, rfl, rfl, rfl⟩

end Sys2Proof.Machine
end

section
/-! Every step keeps the invariant of the machine: each RTN step does, and the model's step is made of
them (40_control_unit.md R100 to R108, log 1). -/

namespace Sys2Proof

open Machine

/-- A row of the catalog is found again by its opcode (R106). -/
theorem lookupForm_isSome_of_mem_catalog : ∀ e ∈ catalog, (lookupForm e.opcode).isSome = true := by
  decide

/-- Every sequence has a step (R123). -/
theorem rtn_length_pos_of_mem_catalog : ∀ e ∈ catalog, 0 < e.rtn.length := by decide

end Sys2Proof

namespace Sys2Proof.Machine

/-! ### The invariant in parts -/

/-- The part of the invariant that says nothing of the control unit's place: MEM_SIZE, memory, FLAG
and INST. `State.inv_iff` ties it to the invariant. -/
structure StorageInv (memSize : Nat) (mem : Memory) (flag : BitVec Config.flagWidth)
    (inst : Option CatalogEntry) : Prop where
  sizePos : 1 ≤ memSize
  sizeMax : memSize ≤ 65536
  memWf : mem.wf = true
  memWithin : mem.within memSize = true
  flagReserved : flag &&& 0xFE = 0
  instKnown : ∀ e, inst = some e → e ∈ catalog

/-- `StorageInv` of a state; an update of its other fields keeps it by definition. -/
def State.StorageOk (s : State) : Prop := StorageInv s.memSize s.mem s.flag s.inst

theorem State.inv_iff {s : State} :
    s.Inv ↔ s.StorageOk ∧ s.controlLegal ∧ (s.err ≠ none → s.phase = .halt) := by
  constructor
  · intro h
    exact ⟨⟨h.sizePos, h.sizeMax, h.memWf, h.memWithin, of_decide_eq_true h.flagReserved,
      h.instKnown⟩, h.control, h.errHalts⟩
  · rintro ⟨h, hctl, herr⟩
    exact ⟨h.sizePos, h.sizeMax, h.memWf, h.memWithin, decide_eq_true h.flagReserved,
      h.instKnown, hctl, herr⟩

theorem State.Inv.storageOk {s : State} (h : s.Inv) : s.StorageOk := (State.inv_iff.mp h).1

/-- While the machine runs no error is recorded (R303). -/
theorem State.Inv.err_eq_none {s : State} (h : s.Inv) (hrun : s.phase ≠ .halt) : s.err = none :=
  by_contra fun herr => hrun (h.errHalts herr)

/-- The invariant of a state with no error recorded. -/
theorem State.StorageOk.inv {s : State} (hst : s.StorageOk) (hctl : s.controlLegal)
    (herr : s.err = none) : s.Inv :=
  State.inv_iff.mpr ⟨hst, hctl, fun h => absurd herr h⟩

/-- DECODE may put any row of the catalog into INST (R106). -/
theorem State.StorageOk.withInst {s : State} (hst : s.StorageOk) {e : CatalogEntry}
    (he : e ∈ catalog) : StorageInv s.memSize s.mem s.flag (some e) :=
  ⟨hst.sizePos, hst.sizeMax, hst.memWf, hst.memWithin, hst.flagReserved,
    fun _ h => Option.some.inj h ▸ he⟩

/-- In EXECUTE there is a current instruction, at a step of its sequence. -/
theorem State.Inv.executing {s : State} (h : s.Inv) (hphase : s.phase = .execute) :
    ∃ e, s.inst = some e ∧ s.k < e.rtn.length := by
  simpa [State.controlLegal, hphase] using h.control

/-- Raising an error enters HALT, where an error may stand (R13, R303). -/
theorem State.StorageOk.raise_inv {s : State} (hst : s.StorageOk) (e : CpuError) :
    (s.raise e).Inv :=
  State.inv_iff.mpr ⟨hst, rfl, fun _ => rfl⟩

/-! ### EXECUTE -/

/-- A completed RTN step keeps memory canonical and inside MEM_SIZE, since only a checked write
changes it, and the reserved bits of FLAG. -/
theorem RtnStep.run_storageOk {r : RtnStep} {s t : State} (h : r.run s = .done t)
    (hs : s.StorageOk) : t.StorageOk := by
  obtain ⟨_, _, _, hinst, _, _, hsize, _⟩ := RtnStep.run_keeps h
  have hflag : t.flag &&& 0xFE = 0 := (RtnStep.run_flagReserved h).trans hs.flagReserved
  have hmem : t.mem.wf = true ∧ t.mem.within s.memSize = true := by
    by_cases hw : .mem ∈ r.written
    · obtain rfl : r = .memWrite := RtnStep.mem_mem_written hw
      rcases s.writeMar_cases with ⟨hb, hr⟩ | ⟨_, hr⟩ <;> rw [RtnStep.run, hr] at h
      · obtain rfl := RtnResult.done.inj h
        exact ⟨Memory.write_wf _ _ hs.memWf,
          Memory.within_write hs.memWithin (of_decide_eq_true hb)⟩
      · cases h
    · rw [(RtnStep.run_frame h).mem hw]
      exact ⟨hs.memWf, hs.memWithin⟩
  refine ⟨?_, ?_, hmem.1, ?_, hflag, ?_⟩
  · rw [hsize]; exact hs.sizePos
  · rw [hsize]; exact hs.sizeMax
  · rw [hsize]; exact hmem.2
  · rw [hinst]; exact hs.instKnown

/-- After the last step the control unit is at a boundary or in HALT (R108). -/
theorem State.leaveExecute_controlLegal (s : State) (e : CatalogEntry) :
    (s.leaveExecute e).controlLegal := by
  by_cases h : e.mnemonic = .stop
  · simp [State.controlLegal, State.leaveExecute, h]
  · simp [State.controlLegal, State.leaveExecute, h]

/-- One step of EXECUTE keeps the invariant, if it is the last one or another follows it. -/
theorem State.Inv.executeStep {s : State} (h : s.Inv) (hphase : s.phase = .execute)
    {e : CatalogEntry} (hinst : s.inst = some e) (r : RtnStep) {last : Bool}
    (hlast : last = false → s.k + 1 < e.rtn.length) : (s.executeStep e r last).Inv := by
  have herr : s.err = none := h.err_eq_none (by simp [hphase])
  unfold State.executeStep
  cases hr : r.run s with
  | done t =>
    obtain ⟨_, hphase', hk', hinst', _, herr', _, _⟩ := RtnStep.run_keeps hr
    have ht : t.StorageOk := RtnStep.run_storageOk hr h.storageOk
    cases last with
    | true => exact State.StorageOk.inv ht (t.leaveExecute_controlLegal e) (herr'.trans herr)
    | false =>
      have hctl : t.nextStep.controlLegal := by
        simp [State.controlLegal, hphase', hphase, hinst', hinst, hk', hlast]
      exact State.StorageOk.inv ht hctl (herr'.trans herr)
  | blocked => exact h
  | raises x => exact h.storageOk.raise_inv x

/-- Running the rest of a sequence keeps the invariant, step by step. -/
theorem State.Inv.runSteps {s : State} (h : s.Inv) (hphase : s.phase = .execute)
    {e : CatalogEntry} (hinst : s.inst = some e) {rs : List RtnStep}
    (hrs : e.rtn.drop s.k = rs) : (s.runSteps e rs).Inv := by
  induction rs generalizing s with
  | nil => exact h
  | cons r rs ih =>
    have hdrop : e.rtn.drop (s.k + 1) = rs := by rw [← List.drop_drop, hrs]; rfl
    have hlast : rs.isEmpty = false → s.k + 1 < e.rtn.length := by
      intro hne
      by_contra hge
      rw [List.drop_eq_nil_of_le (by omega)] at hdrop
      simp [← hdrop] at hne
    have hstep := h.executeStep hphase hinst r hlast
    unfold State.executeStep at hstep
    cases hr : r.run s with
    | done t =>
      rw [State.runSteps_done hr]
      rw [hr] at hstep
      cases hrs' : rs.isEmpty with
      | true => simpa [hrs'] using hstep
      | false =>
        obtain ⟨_, hphase', hk', hinst', _⟩ := RtnStep.run_keeps hr
        have ht : t.nextStep.Inv := by simpa [hrs'] using hstep
        have hdrop' : e.rtn.drop t.nextStep.k = rs := by rwa [State.nextStep_k, hk']
        exact ih ht (hphase'.trans hphase) (hinst'.trans hinst) hdrop'
    | blocked => rw [State.runSteps_blocked hr]; exact h
    | raises x => rw [State.runSteps_raises hr]; exact h.storageOk.raise_inv x

/-- The end of DECODE keeps the invariant: INST is a row of the catalog, and EXECUTE has a first
step (R106, R107). -/
theorem State.Inv.latch {s : State} (h : s.Inv) (herr : s.err = none) (i : Instr) :
    (s.latch i).Inv :=
  State.StorageOk.inv (h.storageOk.withInst i.entry_mem_catalog)
    ⟨i.entry, rfl, rtn_length_pos_of_mem_catalog _ i.entry_mem_catalog⟩ herr

/-- Every instruction keeps the invariant. -/
theorem State.Inv.execute {s : State} (h : s.Inv) (herr : s.err = none) (i : Instr) :
    (s.execute i).Inv :=
  (h.latch herr i).runSteps rfl rfl rfl

/-! ### FETCH and DECODE -/

/-- A read of FETCH or DECODE keeps the invariant, if the step it goes on to is one of the spec. -/
theorem State.Inv.readThen {s : State} (h : s.Inv) (herr : s.err = none) {k : Nat}
    (hctl : ({ s with k := k } : State).controlLegal) : (s.readThen k).Inv := by
  unfold State.readThen
  rcases s.readMar_cases with ⟨_, hr⟩ | ⟨_, hr⟩ <;> rw [hr]
  · exact State.StorageOk.inv h.storageOk hctl herr
  · exact h.storageOk.raise_inv _

/-- The lookup raises, or finds a row of the catalog: a short form then starts EXECUTE, a long form
goes on to its operand word (R106, R300). -/
theorem State.lookupStep_cases (s : State) :
    s.lookupStep = s.raise (.unknownOpcode (opcodeField s.cir) s.cir) ∨
    ∃ e ∈ catalog,
      (e.length = .short ∧ s.lookupStep =
        { s with inst := some e, operand := shortOperand s.cir, phase := .execute, k := 0 }) ∨
      (e.length = .long ∧ s.lookupStep = { s with inst := some e, k := 1 }) := by
  unfold State.lookupStep
  cases he : lookupEntry (opcodeField s.cir) with
  | none => exact .inl rfl
  | some e =>
    refine .inr ⟨e, lookupEntry_mem_catalog he, ?_⟩
    cases hl : e.length with
    | short => exact .inl ⟨rfl, by simp [hl]⟩
    | long => exact .inr ⟨rfl, by simp [hl]⟩

theorem State.Inv.lookupStep {s : State} (h : s.Inv) (hphase : s.phase = .decode) :
    s.lookupStep.Inv := by
  have herr : s.err = none := h.err_eq_none (by simp [hphase])
  rcases s.lookupStep_cases with hs | ⟨e, he, ⟨_, hs⟩ | ⟨hlong, hs⟩⟩ <;> rw [hs]
  · exact h.storageOk.raise_inv _
  · exact State.StorageOk.inv (h.storageOk.withInst he)
      ⟨e, rfl, rtn_length_pos_of_mem_catalog e he⟩ herr
  · refine State.StorageOk.inv (h.storageOk.withInst he) ?_ herr
    simp [State.controlLegal, hphase, hlong]

/-- FETCH keeps the invariant (R102 to R105). -/
theorem State.Inv.fetchStep {s : State} (h : s.Inv) (hphase : s.phase = .fetch) :
    ∃ t, s.fetchStep = .next t ∧ t.Inv := by
  have herr : s.err = none := h.err_eq_none (by simp [hphase])
  have hk : s.k < 4 := by simpa [State.controlLegal, hphase] using h.control
  have hst := h.storageOk
  unfold State.fetchStep
  match hsk : s.k, hk with
  | 0, _ => exact ⟨_, rfl, State.StorageOk.inv hst (by simp [State.controlLegal, hphase]) herr⟩
  | 1, _ => exact ⟨_, rfl, h.readThen herr (by simp [State.controlLegal, hphase])⟩
  | 2, _ => exact ⟨_, rfl, State.StorageOk.inv hst (by simp [State.controlLegal, hphase]) herr⟩
  | 3, _ => exact ⟨_, rfl, State.StorageOk.inv hst (.inl rfl) herr⟩

/-- DECODE keeps the invariant (R106, R107). -/
theorem State.Inv.decodeStep {s : State} (h : s.Inv) (hphase : s.phase = .decode) :
    ∃ t, s.decodeStep = .next t ∧ t.Inv := by
  have herr : s.err = none := h.err_eq_none (by simp [hphase])
  have hst := h.storageOk
  have hctl : s.k = 0 ∨ (s.k < 5 ∧ ∃ e, s.inst = some e ∧ e.length = .long) := by
    simpa [State.controlLegal, hphase] using h.control
  unfold State.decodeStep
  rcases hctl with hk | ⟨hk, e, hinst, hlong⟩
  · rw [hk]; exact ⟨_, rfl, h.lookupStep hphase⟩
  · have hnext : ∀ k < 5, ({ s with k := k } : State).controlLegal := by
      intro k hk
      simp [State.controlLegal, hphase, hinst, hlong, hk]
    match hsk : s.k, hk with
    | 0, _ => exact ⟨_, rfl, h.lookupStep hphase⟩
    | 1, _ => exact ⟨_, rfl, State.StorageOk.inv hst (hnext 2 (by omega)) herr⟩
    | 2, _ => exact ⟨_, rfl, h.readThen herr (hnext 3 (by omega))⟩
    | 3, _ => exact ⟨_, rfl, State.StorageOk.inv hst (hnext 4 (by omega)) herr⟩
    | 4, _ =>
      have hpos := rtn_length_pos_of_mem_catalog e (h.instKnown e hinst)
      exact ⟨_, rfl, State.StorageOk.inv hst ⟨e, hinst, hpos⟩ herr⟩

/-! ### The spec's step and the model's -/

/-- From a state of the invariant the spec's `step()` answers a next state that keeps it. -/
theorem State.Inv.rtnStep {s : State} (h : s.Inv) : ∃ t, s.rtnStep = .next t ∧ t.Inv := by
  unfold State.rtnStep
  cases hphase : s.phase with
  | halt => exact ⟨s, rfl, h⟩
  | fetch => exact h.fetchStep hphase
  | decode => exact h.decodeStep hphase
  | execute =>
    obtain ⟨e, hinst, hk⟩ := h.executing hphase
    have hlast : (s.k + 1 == e.rtn.length) = false → s.k + 1 < e.rtn.length := by
      intro hne
      have := beq_eq_false_iff_ne.mp hne
      omega
    refine ⟨s.executeStep e e.rtn[s.k] (s.k + 1 == e.rtn.length), ?_,
      h.executeStep hphase hinst _ hlast⟩
    simp [State.executeAt, hinst, hk]

/-- The steps of FETCH and DECODE up to EXECUTE keep the invariant. -/
theorem State.Inv.frontEnd {s : State} (h : s.Inv) (n : Nat) :
    ∃ t, s.frontEnd n = .next t ∧ t.Inv := by
  induction n generalizing s with
  | zero => exact ⟨s, rfl, h⟩
  | succ n ih =>
    rw [State.frontEnd]
    split
    · obtain ⟨t, hstep, ht⟩ := h.rtnStep
      rw [hstep]
      exact ih ht
    · exact ⟨s, rfl, h⟩

/-- The rest of an instruction keeps the invariant (R108). -/
theorem State.Inv.resume {s : State} (h : s.Inv) (hphase : s.phase = .execute) :
    ∃ t, s.resume = .next t ∧ t.Inv := by
  obtain ⟨e, hinst, hk⟩ := h.executing hphase
  exact ⟨_, by simp [State.resume, hinst, hk], h.runSteps hphase hinst rfl⟩

/-- At the end of DECODE the instruction in INST and OPERAND is known. -/
theorem State.Inv.decoded {s : State} (h : s.Inv) (hphase : s.phase = .execute) :
    ∃ i, s.decoded = some i := by
  obtain ⟨e, hinst, _⟩ := h.executing hphase
  obtain ⟨f, hf⟩ :=
    Option.isSome_iff_exists.mp (lookupForm_isSome_of_mem_catalog e (h.instKnown e hinst))
  exact ⟨f s.operand, by simp [State.decoded, hinst, hf]⟩

/-- The steps up to EXECUTE and then the whole instruction, as `step` takes them from FETCH and
DECODE. -/
theorem State.Inv.step_frontEnd {s : State} (h : s.Inv) (hx : s.phase ≠ .execute)
    (hh : s.phase ≠ .halt) : ∃ t, step s = .next t ∧ t.Inv := by
  obtain ⟨u, hfront, hu⟩ := h.frontEnd frontSteps
  unfold step
  split
  · next hp => exact absurd hp hh
  · next hp => exact absurd hp hx
  · rw [hfront]
    by_cases hphase : u.phase = .execute
    · obtain ⟨i, hi⟩ := hu.decoded hphase
      refine ⟨u.execute i, ?_, hu.execute (hu.err_eq_none (by simp [hphase])) i⟩
      simp [hphase, hi, exec_eq_execute]
    · exact ⟨u, by simp [hphase], hu⟩

/-- Settles O13, by the phase of the control unit: HALT stays, EXECUTE runs the rest of its sequence,
FETCH and DECODE go on to EXECUTE. -/
theorem stepKeepsTheInvariant : Obligations.StepKeepsTheInvariant := by
  intro s h
  by_cases hx : s.phase = .execute
  · rw [step_execute hx]; exact h.resume hx
  by_cases hh : s.phase = .halt
  · exact ⟨s, by simp [step, hh], h⟩
  exact h.step_frontEnd hx hh

end Sys2Proof.Machine
end

section
/-! No run depends on the ALU latch: two states that differ in the latch alone take the same steps
(10_state.md R31). -/

namespace Sys2Proof.Machine

/-! ### States, results and answers that differ in the latch alone -/

/-- The second state is the first but for its ALU latch. -/
def State.SameButLatch (s s' : State) : Prop := ∃ l : AluLatch, s' = { s with alu := l }

/-- Two results of an RTN step that differ in the latch alone. -/
inductive RtnResult.SameButLatch : RtnResult → RtnResult → Prop where
  | done {t t' : State} (h : t.SameButLatch t') : SameButLatch (.done t) (.done t')
  | blocked : SameButLatch .blocked .blocked
  | raises (x : CpuError) : SameButLatch (.raises x) (.raises x)

/-- Two answers of the spec's `step()` that differ in the latch alone. -/
inductive AnswerSameButLatch :
    Host.Outcome State Fault Refusal → Host.Outcome State Fault Refusal → Prop where
  | next {t t' : State} (h : t.SameButLatch t') : AnswerSameButLatch (.next t) (.next t')
  | fault (f : Fault) : AnswerSameButLatch (.fault f) (.fault f)
  | refused (r : Refusal) : AnswerSameButLatch (.refused r) (.refused r)

section
variable {s s' : State} (h : s.SameButLatch s')
include h

/-! ### RTN steps -/

theorem State.SameButLatch.readMar : RtnResult.SameButLatch s.readMar s'.readMar := by
  obtain ⟨l, rfl⟩ := h
  change RtnResult.SameButLatch (if s.inBounds s.mar then _ else _)
    (if s.inBounds s.mar then _ else _)
  split
  · exact .done ⟨l, rfl⟩
  · exact .raises _

theorem State.SameButLatch.writeMar : RtnResult.SameButLatch s.writeMar s'.writeMar := by
  obtain ⟨l, rfl⟩ := h
  change RtnResult.SameButLatch (if s.inBounds s.mar then _ else _)
    (if s.inBounds s.mar then _ else _)
  split
  · exact .done ⟨l, rfl⟩
  · exact .raises _

theorem State.SameButLatch.popInput : RtnResult.SameButLatch s.popInput s'.popInput := by
  obtain ⟨l, rfl⟩ := h
  unfold State.popInput
  cases s.inq with
  | nil => exact .blocked
  | cons v q => exact .done ⟨l, rfl⟩

/-- The ALU step writes the whole latch, from ACC and the second operand alone (R112). -/
theorem State.SameButLatch.aluStep_eq (op : AluOp) (b : AluSrc) :
    s'.aluStep op (s'.aluSrc b) = s.aluStep op (s.aluSrc b) := by
  obtain ⟨l, rfl⟩ := h
  have hb : State.aluSrc { s with alu := l } b = s.aluSrc b := by cases b <;> rfl
  rw [hb]
  cases op <;> rfl

/-- No RTN step reads the latch. -/
theorem State.SameButLatch.run (r : RtnStep) : RtnResult.SameButLatch (r.run s) (r.run s') := by
  cases r with
  | memRead => exact h.readMar
  | memWrite => exact h.writeMar
  | inPop => exact h.popInput
  | alu op b => exact .done ⟨_, h.aluStep_eq op b⟩
  | transfer d src => obtain ⟨l, rfl⟩ := h; cases d <;> cases src <;> exact .done ⟨l, rfl⟩
  | regInc r => obtain ⟨l, rfl⟩ := h; cases r <;> exact .done ⟨l, rfl⟩
  | regDec r => obtain ⟨l, rfl⟩ := h; cases r <;> exact .done ⟨l, rfl⟩
  | condTransfer want =>
    obtain ⟨l, rfl⟩ := h
    refine .done ⟨l, ?_⟩
    change (if s.flagE = want then _ else _) = _
    split <;> rfl
  | indexAddr => obtain ⟨l, rfl⟩ := h; exact .done ⟨l, rfl⟩
  | outPush => obtain ⟨l, rfl⟩ := h; exact .done ⟨l, rfl⟩
  | halt => exact .done h

/-! ### The control unit -/

theorem State.SameButLatch.executeStep (e : CatalogEntry) (r : RtnStep) (last : Bool) :
    (s.executeStep e r last).SameButLatch (s'.executeStep e r last) := by
  have hrun := h.run r
  unfold State.executeStep
  generalize r.run s = x, r.run s' = x' at hrun ⊢
  cases hrun with
  | done ht => obtain ⟨l, rfl⟩ := ht; cases last <;> exact ⟨l, rfl⟩
  | blocked => exact h
  | raises x => obtain ⟨l, rfl⟩ := h; exact ⟨l, rfl⟩

theorem State.SameButLatch.readThen (k : Nat) :
    (s.readThen k).SameButLatch (s'.readThen k) := by
  have hread := h.readMar
  unfold State.readThen
  generalize s.readMar = x, s'.readMar = x' at hread ⊢
  cases hread with
  | done ht => obtain ⟨l, rfl⟩ := ht; exact ⟨l, rfl⟩
  | blocked => exact h
  | raises x => obtain ⟨l, rfl⟩ := h; exact ⟨l, rfl⟩

theorem State.SameButLatch.lookupStep : s.lookupStep.SameButLatch s'.lookupStep := by
  obtain ⟨l, rfl⟩ := h
  unfold State.lookupStep
  cases lookupEntry (opcodeField s.cir) with
  | none => exact ⟨l, rfl⟩
  | some e => cases hl : e.length <;> exact ⟨l, by simp [hl]⟩

theorem State.SameButLatch.control : s'.phase = s.phase ∧ s'.k = s.k ∧ s'.inst = s.inst := by
  obtain ⟨l, rfl⟩ := h
  exact ⟨rfl, rfl, rfl⟩

theorem State.SameButLatch.fetchStep : AnswerSameButLatch s.fetchStep s'.fetchStep := by
  obtain ⟨_, hk, _⟩ := h.control
  unfold State.fetchStep
  rw [hk]
  rcases s.k with _ | _ | _ | _ | k
  · obtain ⟨l, rfl⟩ := h; exact .next ⟨l, rfl⟩
  · exact .next (h.readThen 2)
  · obtain ⟨l, rfl⟩ := h; exact .next ⟨l, rfl⟩
  · obtain ⟨l, rfl⟩ := h; exact .next ⟨l, rfl⟩
  · exact .fault _

theorem State.SameButLatch.decodeStep : AnswerSameButLatch s.decodeStep s'.decodeStep := by
  obtain ⟨_, hk, _⟩ := h.control
  unfold State.decodeStep
  rw [hk]
  rcases s.k with _ | _ | _ | _ | _ | k
  · exact .next h.lookupStep
  · obtain ⟨l, rfl⟩ := h; exact .next ⟨l, rfl⟩
  · exact .next (h.readThen 3)
  · obtain ⟨l, rfl⟩ := h; exact .next ⟨l, rfl⟩
  · obtain ⟨l, rfl⟩ := h; exact .next ⟨l, rfl⟩
  · exact .fault _

theorem State.SameButLatch.executeAt : AnswerSameButLatch s.executeAt s'.executeAt := by
  obtain ⟨_, hk, hinst⟩ := h.control
  unfold State.executeAt
  rw [hk, hinst]
  cases s.inst with
  | none => exact .fault _
  | some e =>
    cases hr : e.rtn[s.k]? with
    | none => simp only [hr]; exact .fault _
    | some r => simp only [hr]; exact .next (h.executeStep e r _)

/-- The spec's `step()` never reads the latch (R31). -/
theorem State.SameButLatch.rtnStep : AnswerSameButLatch s.rtnStep s'.rtnStep := by
  obtain ⟨hphase, _, _⟩ := h.control
  unfold State.rtnStep
  rw [hphase]
  cases s.phase with
  | halt => exact .next h
  | fetch => exact h.fetchStep
  | decode => exact h.decodeStep
  | execute => exact h.executeAt

end

/-- Runs of every length from states that differ in the latch alone answer alike. -/
theorem State.SameButLatch.rtnRun {s s' : State} (h : s.SameButLatch s') (n : Nat) :
    AnswerSameButLatch (s.rtnRun n) (s'.rtnRun n) := by
  induction n generalizing s s' with
  | zero => exact .next h
  | succ n ih =>
    have hstep := h.rtnStep
    unfold State.rtnRun
    generalize s.rtnStep = x, s'.rtnStep = x' at hstep ⊢
    cases hstep with
    | next ht => exact ih ht
    | fault f => exact .fault f
    | refused r => exact .refused r

/-- Settles O29, by induction on the length of the run: each call of `step()` keeps that the two
states differ in the latch alone. -/
theorem aluLatchIsNeverRead : Obligations.AluLatchIsNeverRead := by
  intro n s t l hrun
  have hsame : s.SameButLatch { s with alu := l } := ⟨l, rfl⟩
  have h := hsame.rtnRun n
  rw [hrun] at h
  generalize State.rtnRun { s with alu := l } n = x at h ⊢
  cases h with
  | next ht => obtain ⟨l', rfl⟩ := ht; exact ⟨l', rfl⟩

end Sys2Proof.Machine
end

section
/-! Reading canonical memory: after a write, as the identity of a memory, and after an instruction
(20_memory.md R50, R54, R56, R59; log 14). -/

namespace Sys2Proof.Machine

/-! ### Reads of one memory -/

@[simp] theorem Memory.read_nil (a : Nat) : Memory.read [] a = 0#16 := rfl

@[simp] theorem Memory.read_cons_self (a : Nat) (x : Word) (m : Memory) :
    Memory.read ((a, x) :: m) a = x :=
  if_pos rfl

theorem Memory.read_cons_of_ne {a b : Nat} (h : a ≠ b) (x : Word) (m : Memory) :
    Memory.read ((b, x) :: m) a = m.read a :=
  if_neg h

/-- Below the first listed address every word reads 0 (R50). -/
theorem Memory.read_of_lt {lo a : Nat} {m : Memory} (hm : Memory.wfFrom lo m = true) (ha : a < lo) :
    m.read a = 0#16 := by
  induction m generalizing lo with
  | nil => rfl
  | cons c m ih =>
    obtain ⟨b, x⟩ := c
    obtain ⟨hb, _, hr⟩ := Memory.wfFrom_cons.mp hm
    rw [Memory.read_cons_of_ne (by omega)]
    exact ih hr (by omega)

/-- The tail of a canonical memory reads 0 at the head's address and as the whole elsewhere. -/
theorem Memory.read_tail {a : Nat} {m : Memory} (hm : Memory.wfFrom (a + 1) m = true) (x : Word)
    (b : Nat) : m.read b = if b = a then 0#16 else Memory.read ((a, x) :: m) b := by
  split
  · next h => exact Memory.read_of_lt hm (by omega)
  · next h => rw [Memory.read_cons_of_ne h]

/-! ### Reading after a write -/

/-- A write leaves every other address as it was; the memory need not be canonical (R54). -/
theorem Memory.read_write_of_ne {a b : Nat} (h : b ≠ a) (m : Memory) (v : Word) :
    (m.write a v).read b = m.read b := by
  induction m with
  | nil =>
    rw [Memory.write]
    split
    · rfl
    · exact Memory.read_cons_of_ne h v []
  | cons c m ih =>
    obtain ⟨d, x⟩ := c
    rw [Memory.write]
    split
    · split
      · rfl
      · exact Memory.read_cons_of_ne h v _
    · split
      · next had =>
        subst had
        rw [Memory.read_cons_of_ne h]
        split
        · rfl
        · exact Memory.read_cons_of_ne h v m
      · rw [Memory.read, Memory.read, ih]

/-- The address written reads the value written, 0 too: canonical memory does not list the address
again behind the place of the write (R59). -/
theorem Memory.read_write_self {lo : Nat} {m : Memory} (hm : Memory.wfFrom lo m = true) (a : Nat)
    (v : Word) : (m.write a v).read a = v := by
  induction m generalizing lo with
  | nil =>
    rw [Memory.write]
    split
    · next hv => exact hv.symm
    · exact Memory.read_cons_self a v []
  | cons c m ih =>
    obtain ⟨d, x⟩ := c
    obtain ⟨_, hx, hr⟩ := Memory.wfFrom_cons.mp hm
    rw [Memory.write]
    split
    · next had =>
      split
      · next hv =>
        rw [hv]
        exact Memory.read_of_lt (Memory.wfFrom_cons.mpr ⟨le_refl d, hx, hr⟩) had
      · exact Memory.read_cons_self a v _
    · split
      · split
        · next had hv => rw [hv]; exact Memory.read_of_lt hr (by omega)
        · exact Memory.read_cons_self a v m
      · next had => rw [Memory.read_cons_of_ne had]; exact ih hr

/-- Settles O22: the address written reads the value by the canonical form, every other address is
left as it was by any write. -/
theorem readAfterWrite : Obligations.ReadAfterWrite := by
  intro m a b v hm
  split
  · next h => rw [h]; exact Memory.read_write_self hm a v
  · next h => exact Memory.read_write_of_ne h m v

/-! ### Reads determine canonical memory -/

/-- If two canonical memories read alike, the second starts no later than the first: the first reads
a word other than 0 at its head. -/
theorem Memory.head_le_of_read_eq {lo lo' a b : Nat} {x y : Word} {m m' : Memory}
    (hm : Memory.wfFrom lo ((a, x) :: m) = true) (hm' : Memory.wfFrom lo' ((b, y) :: m') = true)
    (h : ∀ c, Memory.read ((a, x) :: m) c = Memory.read ((b, y) :: m') c) : b ≤ a := by
  obtain ⟨_, hx, _⟩ := Memory.wfFrom_cons.mp hm
  obtain ⟨_, hy, hr'⟩ := Memory.wfFrom_cons.mp hm'
  by_contra hlt
  have hzero : Memory.read ((b, y) :: m') a = 0#16 :=
    Memory.read_of_lt (Memory.wfFrom_cons.mpr ⟨le_refl b, hy, hr'⟩) (by omega)
  exact hx (by rw [← hzero, ← h a, Memory.read_cons_self])

/-- A memory that lists a word does not read 0 everywhere. -/
theorem Memory.not_read_cons_zero {lo a : Nat} {x : Word} {m : Memory}
    (hm : Memory.wfFrom lo ((a, x) :: m) = true) : ¬ ∀ c, Memory.read ((a, x) :: m) c = 0#16 := by
  obtain ⟨_, hx, _⟩ := Memory.wfFrom_cons.mp hm
  exact fun h => hx ((Memory.read_cons_self a x m).symm.trans (h a))

/-- Memories in canonical form are equal when they read alike, by induction on the first: heads have
the same address and value, and then the tails read alike. -/
theorem Memory.eq_of_read_eq {lo lo' : Nat} {m m' : Memory} (hm : Memory.wfFrom lo m = true)
    (hm' : Memory.wfFrom lo' m' = true) (h : ∀ a, m.read a = m'.read a) : m = m' := by
  induction m generalizing lo lo' m' with
  | nil =>
    cases m' with
    | nil => rfl
    | cons c' m' => exact absurd (fun a => (h a).symm) (Memory.not_read_cons_zero hm')
  | cons c m ih =>
    obtain ⟨a, x⟩ := c
    cases m' with
    | nil => exact absurd h (Memory.not_read_cons_zero hm)
    | cons c' m' =>
      obtain ⟨b, y⟩ := c'
      obtain rfl : a = b := le_antisymm
        (Memory.head_le_of_read_eq hm' hm fun c => (h c).symm) (Memory.head_le_of_read_eq hm hm' h)
      obtain rfl : x = y := by simpa using h a
      obtain ⟨_, _, hr⟩ := Memory.wfFrom_cons.mp hm
      obtain ⟨_, _, hr'⟩ := Memory.wfFrom_cons.mp hm'
      have htail : ∀ c, Memory.read m c = Memory.read m' c := fun c => by
        rw [Memory.read_tail hr x, Memory.read_tail hr' x, h c]
      rw [ih hr hr' htail]

/-- Settles O23, from the induction over canonical memories with any lower bound. -/
theorem equalReadsMeanEqualMemory : Obligations.EqualReadsMeanEqualMemory :=
  fun _ _ hm hm' h => Memory.eq_of_read_eq hm hm' h

/-! ### The one instruction that writes memory -/

/-- The rows of STO are the store form, and no other row of R75 writes memory (R56). -/
theorem catalog_mem_writers : ∀ e ∈ catalog,
    if e.mnemonic = .sto then e.rtn = storeSteps else .mem ∉ e.written := by decide

/-- A last step MemWrite writes MDR at MAR if that is inside MEM_SIZE, and else changes no word
(R12, R51). -/
theorem State.runSteps_memWrite_mem (s : State) (e : CatalogEntry) :
    (s.runSteps e [.memWrite]).mem =
      if s.inBounds s.mar then s.mem.write s.mar.toNat s.mdr else s.mem := by
  rcases s.writeMar_cases with ⟨hb, hr⟩ | ⟨hb, hr⟩
  · rw [State.runSteps_done (r := .memWrite) hr, if_pos hb]; rfl
  · rw [State.runSteps_raises (r := .memWrite) hr, hb]; rfl

/-- The store form writes ACC at the operand if that is inside MEM_SIZE, and else changes no word:
its two transfers put them into MAR and MDR (R111, R51). -/
theorem State.execute_store_mem (s : State) {i : Instr} (hi : i.entry.rtn = storeSteps) :
    (s.execute i).mem =
      if s.inBounds i.operand then s.mem.write i.operand.toNat s.acc else s.mem := by
  rw [State.execute, hi]
  exact State.runSteps_memWrite_mem
    { s.latch i with mar := i.operand, mdr := s.acc, k := 2 } i.entry

/-- The store form leaves every word but the one at its operand (R54, R56). -/
theorem State.execute_store_read (s : State) {i : Instr} (hi : i.entry.rtn = storeSteps) {b : Nat}
    (hb : b ≠ i.operand.toNat) : (s.execute i).mem.read b = s.mem.read b := by
  rw [s.execute_store_mem hi]
  split
  · exact Memory.read_write_of_ne hb _ _
  · rfl

/-- Settles O24: the frame of EXECUTE over the catalog's rows, and the store form of STO. -/
theorem onlyStoWritesMemory : Obligations.OnlyStoWritesMemory := by
  intro i s t h
  obtain rfl := execute_of_exec h
  have hi := catalog_mem_writers _ i.entry_mem_catalog
  constructor
  · intro hm
    rw [if_neg hm] at hi
    exact (s.execute_frame i).mem hi
  · intro hm b hb
    rw [if_pos hm] at hi
    exact s.execute_store_read hi hb

end Sys2Proof.Machine
end

section
/-! Decoding and encoding are inverse to each other up to the reserved byte of a long form, and the
bits that the spec reserves have no effect (30_encoding.md R70 to R80). -/

namespace Sys2Proof

open Machine

/-! ### The fields of the first word -/

@[simp] theorem opcodeField_firstWord (opcode low : Byte) :
    opcodeField (firstWord opcode low) = opcode :=
  BitVec.extractLsb'_append_eq_left

@[simp] theorem shortField_firstWord (opcode low : Byte) :
    shortField (firstWord opcode low) = low :=
  BitVec.extractLsb'_append_eq_right

/-- Bits 15..8 of the first word are the opcode, bits 7..0 the low byte (R71). -/
theorem getLsbD_firstWord (opcode low : Byte) (k : Nat) :
    (firstWord opcode low).getLsbD k = if k < 8 then low.getLsbD k else opcode.getLsbD (k - 8) :=
  BitVec.getLsbD_append

theorem getLsbD_opcodeField {w : Word} {k : Nat} (hk : 8 ≤ k) (hk' : k < 16) :
    (opcodeField w).getLsbD (k - 8) = w.getLsbD k := by
  have h8 : 8 + (k - 8) = k := by omega
  have hlt : k - 8 < 8 := by omega
  simp [opcodeField, h8, hlt]

/-- A word is its opcode field and its short operand field (R70, R71). -/
theorem firstWord_fields (w : Word) : firstWord (opcodeField w) (shortField w) = w := by
  refine BitVec.eq_of_getLsbD_eq fun k hk => ?_
  rw [getLsbD_firstWord]
  split
  · next hlow => simp [shortField, hlow]
  · next hhigh => exact getLsbD_opcodeField (by omega) hk

/-- The mask of the opcode field (R70). -/
theorem getLsbD_opcodeMask : ∀ k < 16, (0xFF00 : Word).getLsbD k = decide (8 ≤ k) := by decide

/-- With a zero low byte only the opcode field of the word remains (R72). -/
theorem firstWord_opcodeField_zero (w : Word) : firstWord (opcodeField w) 0#8 = w &&& 0xFF00 := by
  refine BitVec.eq_of_getLsbD_eq fun k hk => ?_
  rw [getLsbD_firstWord, BitVec.getLsbD_and, getLsbD_opcodeMask k hk]
  split
  · next hlow => simp [Nat.not_le.mpr hlow]
  · next hhigh => simp [getLsbD_opcodeField (Nat.not_lt.mp hhigh) hk, Nat.not_lt.mp hhigh]

theorem shortOperand_toNat (w : Word) : (shortOperand w).toNat = (shortField w).toNat :=
  BitVec.toNat_setWidth_of_le (by decide)

theorem shortOperand_toNat_lt (w : Word) : (shortOperand w).toNat < 256 := by
  rw [shortOperand_toNat]
  exact (shortField w).isLt

theorem shortField_toNat (w : Word) : (shortField w).toNat = w.toNat % 256 := by
  simp [shortField]

/-- The short operand field of an operand that was read from one is that field again (R76). -/
@[simp] theorem shortField_shortOperand (w : Word) : shortField (shortOperand w) = shortField w := by
  apply BitVec.eq_of_toNat_eq
  rw [shortField_toNat, Nat.mod_eq_of_lt (shortOperand_toNat_lt w), shortOperand_toNat]

/-- An operand that fits the short field is read back from it (R71, R76). -/
theorem shortOperand_firstWord {n : Word} (h : n.toNat < 256) (opcode : Byte) :
    shortOperand (firstWord opcode (shortField n)) = n := by
  apply BitVec.eq_of_toNat_eq
  rw [shortOperand_toNat, shortField_firstWord, shortField_toNat, Nat.mod_eq_of_lt h]

/-! ### The forms and the lookup -/

/-- A form of the catalog has the same entry for every operand and holds the operand it is given. -/
theorem allForms_apply {f : Word → Instr} (hf : f ∈ allForms) (n : Word) :
    ((f n).entry, (f n).operand) = (formEntry f, n) :=
  have hall : allForms.map (fun f n => ((f n).entry, (f n).operand)) =
      allForms.map fun f n => (formEntry f, n) := rfl
  congrFun (List.map_inj_left.mp hall f hf) n

/-- The lookup finds the form of every instruction by its opcode (R75, R106). -/
theorem Instr.lookupForm_opcode (i : Instr) :
    ∃ f, lookupForm i.entry.opcode = some f ∧ f i.operand = i := by
  cases i <;> exact ⟨_, rfl, rfl⟩

/-- The form that the lookup answers has the opcode asked for, whatever its operand. -/
theorem lookupForm_apply {op : Byte} {f : Word → Instr} (h : lookupForm op = some f) (n : Word) :
    (f n).entry = formEntry f ∧ (f n).operand = n ∧ (f n).entry.opcode = op := by
  obtain ⟨hentry, hoperand⟩ := Prod.mk.inj (allForms_apply (List.mem_of_find?_eq_some h) n)
  have hop := List.find?_some h
  exact ⟨hentry, hoperand, by rw [hentry]; exact eq_of_beq hop⟩

/-- Two instructions with the same opcode have the same entry (R75). -/
theorem Instr.entry_eq_of_opcode_eq {i j : Instr} (h : i.entry.opcode = j.entry.opcode) :
    i.entry = j.entry :=
  Option.some.inj (by rw [← i.lookupEntry_opcode, h, j.lookupEntry_opcode])

/-- The long forms are the entries whose opcode has its top bit set (R73, D2). -/
theorem catalog_long_iff : ∀ e ∈ catalog, e.length = .long ↔ e.opcode.getLsbD 7 = true := by
  decide

/-- No entry has an opcode exactly when no row of the catalog has it (R79, R106). -/
theorem lookupEntry_eq_none_iff {op : Byte} :
    lookupEntry op = none ↔ op.toNat ∉ catalog.map fun e => e.opcode.toNat := by
  simp [lookupEntry, lookupForm, catalog, BitVec.toNat_inj]

/-- The opcodes that R75 gives an entry, in the table's order (D1). -/
theorem catalog_opcodes : catalog.map (fun e => e.opcode.toNat) =
    List.range' 0x01 32 ++ List.range' 0x81 5 ++ List.range' 0x87 5 ++ List.range' 0x90 14 := rfl

/-! ### What the decoder reads -/

/-- A short form takes its operand from the first word (R71). -/
theorem decode_short {w : Word} {rest : List Word} {f : Word → Instr}
    (hf : lookupForm (opcodeField w) = some f) (hlen : (formEntry f).length = .short) :
    decode (w :: rest) = .ok (f (shortOperand w), rest) := by
  simp [decode, hf, hlen]

/-- A long form takes its operand from the second word (R72). -/
theorem decode_long {w v : Word} {rest : List Word} {f : Word → Instr}
    (hf : lookupForm (opcodeField w) = some f) (hlen : (formEntry f).length = .long) :
    decode (w :: v :: rest) = .ok (f v, rest) := by
  simp [decode, hf, hlen]

/-- What the decoder answers for a first word and the words after it: the entry of the opcode
field, and the operand from the low byte of a short form or from the second word of a long form
(R71, R72, R76). -/
theorem decode_cons_eq_ok_iff {w : Word} {rest r : List Word} {i : Instr} :
    decode (w :: rest) = .ok (i, r) ↔
      i.entry.opcode = opcodeField w ∧
        (i.entry.length = .short ∧ i.operand = shortOperand w ∧ r = rest ∨
          i.entry.length = .long ∧ rest = i.operand :: r) := by
  constructor
  · intro h
    cases hf : lookupForm (opcodeField w) with
    | none => simp [decode, hf] at h
    | some f =>
      have happly := lookupForm_apply hf
      cases hlen : (formEntry f).length with
      | short =>
        rw [decode_short hf hlen] at h
        cases h
        obtain ⟨hentry, hoperand, hop⟩ := happly (shortOperand w)
        exact ⟨hop, .inl ⟨by rw [hentry, hlen], hoperand, rfl⟩⟩
      | long =>
        cases rest with
        | nil => simp [decode, hf, hlen] at h
        | cons v rest =>
          rw [decode_long hf hlen] at h
          cases h
          obtain ⟨hentry, hoperand, hop⟩ := happly v
          exact ⟨hop, .inr ⟨by rw [hentry, hlen], by rw [hoperand]⟩⟩
  · rintro ⟨hop, hwords⟩
    obtain ⟨f, hf, hfi⟩ := i.lookupForm_opcode
    obtain ⟨hentry, _⟩ := lookupForm_apply hf i.operand
    rw [hfi] at hentry
    rw [hop] at hf
    rw [hentry] at hwords
    obtain ⟨hlen, hoperand, rfl⟩ | ⟨hlen, rfl⟩ := hwords
    · rw [decode_short hf hlen, ← hoperand, hfi]
    · rw [decode_long hf hlen, hfi]

/-- The length follows from bit 15 of the first word (R78). -/
theorem long_iff_of_opcode_eq {w : Word} {i : Instr} (h : i.entry.opcode = opcodeField w) :
    i.entry.length = .long ↔ w.getLsbD 15 = true := by
  rw [catalog_long_iff _ i.entry_mem_catalog, h]
  exact Eq.congr_left (getLsbD_opcodeField (k := 15) (by decide) (by decide))

/-- The low byte of a long form's first word does not reach the decoder's answer (R80, D4). -/
theorem decode_long_eq_of_opcodeField_eq {w w' : Word} {rest : List Word} {x : Instr × List Word}
    (hop : opcodeField w = opcodeField w') (hbit : w.getLsbD 15 = true)
    (h : decode (w :: rest) = .ok x) : decode (w' :: rest) = .ok x := by
  obtain ⟨i, r⟩ := x
  obtain ⟨hi, hwords⟩ := decode_cons_eq_ok_iff.mp h
  have hlong := (long_iff_of_opcode_eq hi).mpr hbit
  obtain ⟨hshort, _⟩ | hwords := hwords
  · rw [hlong] at hshort
    cases hshort
  · exact decode_cons_eq_ok_iff.mpr ⟨hi.trans hop, .inr hwords⟩

end Sys2Proof

namespace Sys2Proof.Machine

/-! ### Steps that do not read OPERAND -/

/-- The RTN step reads OPERAND (R109); `RtnStep.run_withOperand` ties it to the step's effect. -/
def RtnStep.readsOperand : RtnStep → Bool
  | .transfer _ .operand => true
  | .indexAddr => true
  | .alu _ .operand => true
  | .condTransfer _ => true
  | _ => false

/-- The state with another value in OPERAND. -/
def State.withOperand (s : State) (n : Word) : State := { s with operand := n }

/-- The result of an RTN step with another value in OPERAND. -/
def RtnResult.withOperand (n : Word) : RtnResult → RtnResult
  | .done t => .done (t.withOperand n)
  | .blocked => .blocked
  | .raises x => .raises x

/-- A step that does not read OPERAND does the same for every value of it. -/
theorem RtnStep.run_withOperand {r : RtnStep} (hr : r.readsOperand = false) (s : State) (n : Word) :
    r.run (s.withOperand n) = (r.run s).withOperand n := by
  cases r with
  | transfer d src =>
    cases src with
    | operand => cases hr
    | acc => cases d <;> rfl
    | mdr => cases d <;> rfl
  | indexAddr => cases hr
  | memRead =>
    change (if s.inBounds s.mar then _ else _) = RtnResult.withOperand n s.readMar
    rcases s.readMar_cases with ⟨hb, hr⟩ | ⟨hb, hr⟩ <;> rw [hb, hr] <;> rfl
  | memWrite =>
    change (if s.inBounds s.mar then _ else _) = RtnResult.withOperand n s.writeMar
    rcases s.writeMar_cases with ⟨hb, hr⟩ | ⟨hb, hr⟩ <;> rw [hb, hr] <;> rfl
  | alu op b =>
    cases b with
    | operand => cases hr
    | mdr => cases op <;> rfl
  | regInc r => cases r <;> rfl
  | regDec r => cases r <;> rfl
  | condTransfer want => cases hr
  | inPop =>
    have hinq : (s.withOperand n).inq = s.inq := rfl
    rw [RtnStep.run, RtnStep.run, State.popInput, State.popInput, hinq]
    cases s.inq <;> rfl
  | outPush => rfl
  | halt => rfl

/-- A sequence of steps that do not read OPERAND leaves the same state for every value of it. -/
theorem State.runSteps_withOperand {rs : List RtnStep}
    (hrs : rs.any RtnStep.readsOperand = false) (s : State) (e : CatalogEntry) (n : Word) :
    (s.withOperand n).runSteps e rs = (s.runSteps e rs).withOperand n := by
  induction rs generalizing s with
  | nil => rfl
  | cons r rs ih =>
    obtain ⟨hr, hrs⟩ := Bool.or_eq_false_iff.mp hrs
    have hrun := RtnStep.run_withOperand hr s n
    cases hs : r.run s with
    | done t =>
      rw [hs] at hrun
      rw [State.runSteps_done hrun, State.runSteps_done hs]
      split
      · rfl
      · exact ih hrs t.nextStep
    | blocked =>
      rw [hs] at hrun
      rw [State.runSteps_blocked hrun, State.runSteps_blocked hs]
    | raises x =>
      rw [hs] at hrun
      rw [State.runSteps_raises hrun, State.runSteps_raises hs]
      rfl

/-- Two instructions of one entry, none of whose steps reads OPERAND, leave states that differ in
OPERAND alone. -/
theorem exec_of_not_readsOperand {i j : Instr} (hentry : i.entry = j.entry)
    (hrtn : i.entry.rtn.any RtnStep.readsOperand = false) (s : State) :
    exec j s = .next ((s.execute i).withOperand j.operand) := by
  have hlatch : s.latch j = (s.latch i).withOperand j.operand := by
    rw [State.latch, State.latch, hentry]
    rfl
  rw [exec_eq_execute, State.execute, State.execute, hlatch, ← hentry,
    State.runSteps_withOperand hrtn]

end Sys2Proof.Machine

namespace Sys2Proof

open Machine

/-! ### The obligations -/

/-- Settles O1: the words of an instruction are what the decoder reads it from. -/
theorem decodeEncodeRoundTrip : Obligations.DecodeEncodeRoundTrip := by
  intro i rest hwf
  rw [Instr.wf] at hwf
  unfold encode
  cases hlen : i.entry.length with
  | short =>
    rw [hlen] at hwf
    have hfits : i.operand.toNat < 256 := of_decide_eq_true hwf
    exact decode_cons_eq_ok_iff.mpr ⟨(opcodeField_firstWord _ _).symm,
      .inl ⟨hlen, (shortOperand_firstWord hfits _).symm, rfl⟩⟩
  | long =>
    exact decode_cons_eq_ok_iff.mpr ⟨(opcodeField_firstWord _ _).symm, .inr ⟨hlen, rfl⟩⟩

/-- Settles O2: the decoder reads the opcode field and, in a short form, the low byte; the encoder
writes them back. -/
theorem encodeDecodeKeepsEveryReadBit : Obligations.EncodeDecodeKeepsEveryReadBit := by
  intro w rest i r h
  obtain ⟨hop, ⟨hlen, hoperand, rfl⟩ | ⟨hlen, rfl⟩⟩ := decode_cons_eq_ok_iff.mp h
  · simp [Instr.wf, encode, hlen, hop, hoperand, shortOperand_toNat_lt, firstWord_fields]
  · simp [Instr.wf, encode, hlen, hop, firstWord_opcodeField_zero]

/-- Settles O3: the decoder looks the entry up by the opcode field, whose top bit is bit 15. -/
theorem lengthFollowsFromTheFirstWord : Obligations.LengthFollowsFromTheFirstWord := by
  intro w rest i r h
  obtain ⟨hop, hwords⟩ := decode_cons_eq_ok_iff.mp h
  refine ⟨long_iff_of_opcode_eq hop, ?_, ?_⟩
  · obtain ⟨hlen, _, rfl⟩ | ⟨hlen, rfl⟩ := hwords <;> simp [hlen, InstrLength.words]
  · intro rest' i' r' h'
    obtain ⟨hop', _⟩ := decode_cons_eq_ok_iff.mp h'
    exact Instr.entry_eq_of_opcode_eq (hop'.trans hop.symm)

/-- Settles O4: the decoder's answer is a function of the opcode field and the second word, and no
step of the eight forms reads OPERAND. -/
theorem reservedBitsHaveNoEffect : Obligations.ReservedBitsHaveNoEffect := by
  refine ⟨fun _ _ _ _ => decode_long_eq_of_opcodeField_eq, fun s n m f hf => ?_⟩
  have h : ∀ k, exec (f k) s = .next ((s.execute (f n)).withOperand k) := by
    intro k
    simp only [List.mem_cons, List.not_mem_nil, or_false] at hf
    rcases hf with rfl | rfl | rfl | rfl | rfl | rfl | rfl | rfl <;>
      exact exec_of_not_readsOperand (by rfl) (by rfl) s
  exact ⟨s.execute (f n), h n, h m⟩

/-- Settles O5: the words by evaluation, the illegal opcodes as the gaps between the catalog's four
runs of opcodes. -/
theorem tableWordsDecode : Obligations.TableWordsDecode := by
  refine ⟨rfl, rfl, rfl, rfl, rfl, rfl, rfl, rfl, rfl, rfl, rfl, rfl, fun op => ?_⟩
  have hop : op.toNat < 256 := op.isLt
  rw [lookupEntry_eq_none_iff, catalog_opcodes]
  simp only [List.mem_append, List.mem_range'_1, illegalOpcode, Bool.or_eq_true,
    Bool.and_eq_true, decide_eq_true_eq]
  omega

end Sys2Proof
end

section
/-! The text of an instruction parses back to it (30_encoding.md R81, 50_assembler.md R253 to R259). -/

namespace Sys2Proof.Machine

/-! ### Characters and digits -/

/-- A name character is no white space (R252, R254). -/
theorem isWhite_of_isNameChar {c : Char} (h : isNameChar c = true) : isWhite c = false := by
  rw [isWhite, Bool.or_eq_false_iff, beq_eq_false_iff_ne, beq_eq_false_iff_ne]
  constructor <;> rintro rfl <;> exact absurd h (by decide)

theorem ne_colon_of_isNameChar {c : Char} (h : isNameChar c = true) : c ≠ ':' := by
  rintro rfl
  exact absurd h (by decide)

theorem isNameChar_of_isDigit {c : Char} (h : isDigit c = true) : isNameChar c = true := by
  rw [isNameChar, h, Bool.or_true]

/-- The digit printed for a number below ten is a digit and stands for it (R81, R256). -/
theorem digitChar_spec : ∀ d < 10, isDigit (digitChar d) = true ∧ digitValue (digitChar d) = d := by
  decide

/-! ### Denary numbers -/

theorem numberIn_append_digit (base : Nat) (t : List Char) (c : Char) :
    numberIn base (t ++ [c]) = numberIn base t * base + digitValue c := by
  simp [numberIn]

/-- Every character printed is a digit. -/
theorem denaryDigits_all_isDigit (fuel n : Nat) : ∀ c ∈ denaryDigits fuel n, isDigit c = true := by
  induction fuel generalizing n with
  | zero => exact fun c hc => nomatch hc
  | succ fuel ih =>
    intro c hc
    rw [denaryDigits] at hc
    split at hc
    · next hn =>
      rw [List.mem_singleton.mp hc]
      exact (digitChar_spec n hn).1
    · rcases List.mem_append.mp hc with hc | hc
      · exact ih _ c hc
      · rw [List.mem_singleton.mp hc]
        exact (digitChar_spec _ (Nat.mod_lt n (by decide))).1

/-- With fuel for all its digits, the number printed is the number read. -/
theorem numberIn_denaryDigits {fuel n : Nat} (h : n < 10 ^ fuel) :
    numberIn 10 (denaryDigits fuel n) = n := by
  induction fuel generalizing n with
  | zero =>
    obtain rfl : n = 0 := by simpa using h
    rfl
  | succ fuel ih =>
    rw [denaryDigits]
    split
    · next hn =>
      exact (numberIn_append_digit 10 [] _).trans ((Nat.zero_add _).trans (digitChar_spec n hn).2)
    · have hdiv : n / 10 < 10 ^ fuel := Nat.div_lt_of_lt_mul (by rwa [← Nat.pow_succ'])
      rw [numberIn_append_digit, ih hdiv, (digitChar_spec _ (Nat.mod_lt n (by decide))).2]
      omega

theorem denaryDigits_succ_ne_nil (fuel n : Nat) : denaryDigits (fuel + 1) n ≠ [] := by
  rw [denaryDigits]
  split <;> simp

theorem isDigit_of_mem_denary {w : Word} : ∀ c ∈ denary w, isDigit c = true :=
  denaryDigits_all_isDigit 5 w.toNat

@[simp] theorem denary_ne_nil (w : Word) : denary w ≠ [] := denaryDigits_succ_ne_nil 4 w.toNat

/-- The text of a word is a number (R256). -/
@[simp] theorem isNumber_denary (w : Word) : isNumber (denary w) = true := by
  rw [isNumber, List.all_eq_true.mpr isDigit_of_mem_denary]
  simp

/-- Five digits are enough for a word (R81). -/
@[simp] theorem numberIn_denary (w : Word) : numberIn 10 (denary w) = w.toNat :=
  numberIn_denaryDigits (Nat.lt_trans w.isLt (by decide))

/-! ### Operand tokens -/

/-- The text of a word starts with a digit. -/
theorem denary_eq_cons (w : Word) : ∃ c cs, denary w = c :: cs ∧ isDigit c = true := by
  obtain ⟨c, cs, hw⟩ := List.exists_cons_of_ne_nil (denary_ne_nil w)
  exact ⟨c, cs, hw, isDigit_of_mem_denary c (by rw [hw]; exact List.mem_cons_self)⟩

/-- A bare denary number is a bare-number token (R256). -/
theorem classify_denary (w : Word) : classify (denary w) = some (.bare w.toNat) := by
  have hnumber := isNumber_denary w
  have hvalue := numberIn_denary w
  obtain ⟨c, cs, hw, hc⟩ := denary_eq_cons w
  have hne : ∀ d, isDigit d = false → c ≠ d := by
    rintro d hd rfl
    rw [hc] at hd
    cases hd
  rw [hw] at hnumber hvalue ⊢
  rw [classify, if_neg (hne _ (by decide)), if_neg (hne _ (by decide)),
    if_neg fun h => hne _ (by decide) h.1, if_pos hnumber, hvalue]

/-- A denary number after `#` is an immediate literal (R256). -/
theorem classify_hash_denary (w : Word) :
    classify ('#' :: denary w) = some (.literal w.toNat) := by
  have hnumber := isNumber_denary w
  have hvalue := numberIn_denary w
  obtain ⟨c, cs, hw, hc⟩ := denary_eq_cons w
  have hminus : c ≠ '-' := by
    rintro rfl
    exact absurd hc (by decide)
  rw [hw] at hnumber hvalue ⊢
  rw [classify, if_pos rfl, denaryLiteral, if_pos hnumber, hvalue]
  rintro ds h
  exact hminus (List.cons.inj h).1

/-- Every word is in the range of a literal and is its encoded value (R258). -/
theorem literalValue_toNat (w : Word) : literalValue w.toNat = some w := by
  have hw : w.toNat < 65536 := w.isLt
  rw [literalValue, if_pos (by omega), wrap16, BitVec.ofInt_natCast, BitVec.ofNat_toNat,
    BitVec.setWidth_eq]

/-- Every word is in the range of a bare number and is its encoded value (R258). -/
theorem bareValue_toNat (w : Word) : bareValue w.toNat = some w := by
  have hw : w.toNat < 65536 := w.isLt
  rw [bareValue, if_pos (by omega), BitVec.ofNat_toNat, BitVec.setWidth_eq]

/-! ### Tokens and labels of a line -/

/-- Characters that are not white space go to the token being read. -/
theorem tokens_go_append {t : List Char} (ht : ∀ c ∈ t, isWhite c = false) (rest cur : List Char) :
    tokens.go (t ++ rest) cur = tokens.go rest (t.reverse ++ cur) := by
  induction t generalizing cur with
  | nil => rfl
  | cons c t ih =>
    rw [List.cons_append, tokens.go, if_neg (by simp [ht c List.mem_cons_self]),
      ih (fun d hd => ht d (List.mem_cons_of_mem c hd)), List.reverse_cons, List.append_assoc,
      List.singleton_append]

/-- Two words with a space between them are the two tokens of a line (R253). -/
theorem tokens_two {m t : List Char} (hm : ∀ c ∈ m, isWhite c = false) (hm0 : m ≠ [])
    (ht : ∀ c ∈ t, isWhite c = false) (ht0 : t ≠ []) : tokens (m ++ ' ' :: t) = [m, t] := by
  have hlast : tokens.go t [] = [t] := by
    obtain ⟨c, cs, hr⟩ := List.exists_cons_of_ne_nil (List.reverse_ne_nil_iff.mpr ht0)
    have h := tokens_go_append ht [] []
    rw [List.append_nil, List.append_nil, hr, tokens.go, ← hr, List.reverse_reverse] at h
    · exact h
    · exact List.cons_ne_nil c cs
  rw [tokens, tokens_go_append hm, List.append_nil, tokens.go, if_pos (by decide),
    if_neg (by simp [hm0]), hlast, List.reverse_reverse]

/-- A line with no `:` has no label (R253). -/
theorem parseLine_of_no_colon {t : List Char} (h : ':' ∉ t) :
    parseLine t = parseStatement none (tokens t) := by
  simp [parseLine, splitLabel, h]

/-! ### What a mnemonic and an operand select -/

/-- The source mnemonic that a catalog mnemonic is spelled with, its register left out (R255). -/
def Mnemonic.source : Mnemonic → SourceMnemonic
  | .ldm => .ldm
  | .ldd => .ldd
  | .ldi => .ldi
  | .ldx => .ldx
  | .ldr => .ldr
  | .movIx => .mov
  | .sto => .sto
  | .add => .add
  | .sub => .sub
  | .incAcc => .inc
  | .incIx => .inc
  | .decAcc => .dec
  | .decIx => .dec
  | .jmp => .jmp
  | .cmp => .cmp
  | .cmi => .cmi
  | .jpe => .jpe
  | .jpn => .jpn
  | .and => .and
  | .or => .or
  | .xor => .xor
  | .lsl => .lsl
  | .lsr => .lsr
  | .input => .input
  | .output => .output
  | .stop => .stop

/-- The entry takes a value operand: it is not of register mode or none mode (R74). -/
def CatalogEntry.takesValue (e : CatalogEntry) : Bool :=
  match e.mode with
  | .register => false
  | .none => false
  | _ => true

/-- The mnemonic of a row with a value operand is spelled as a name, which is read as that mnemonic
and takes no register (R254, R255). -/
theorem catalog_mnemonic_text : ∀ e ∈ catalog, e.takesValue = true →
    isName e.mnemonic.text = true ∧ parseMnemonic e.mnemonic.text = some e.mnemonic.source ∧
      takesRegister e.mnemonic.source = false := by decide

/-- Every row with an immediate operand is the one its mnemonic selects with a literal of its
length; the mnemonic has a short form too (R257, R259). -/
theorem catalog_immForm : ∀ e ∈ catalog, e.mode = .immediate →
    (immForm e.mnemonic.source .short).isSome = true ∧
      (immForm e.mnemonic.source e.length).map formEntry = some e := by decide

/-- Every row of direct, indirect or indexed mode is the one its mnemonic selects with a bare number
of its length; the mnemonic has a short form too (R257, R259). -/
theorem catalog_addrForm : ∀ e ∈ catalog, e.takesValue = true → e.mode ≠ .immediate →
    (addrForm e.mnemonic.source .short).isSome = true ∧
      (addrForm e.mnemonic.source e.length).map formEntry = some e := by decide

/-- The text of a row without a value operand is its line (R255, R257). -/
theorem catalog_parseLine_text : ∀ e ∈ catalog, e.takesValue = false →
    parseLine e.mnemonic.text = .ok (.instr none e .none) := by decide

/-! ### A line with a mnemonic and an operand -/

/-- A value operand selects the form of its length, if the mnemonic has a short form (R257 to R259). -/
theorem valueOperand_eq_ok {forms : InstrLength → Option (Word → Instr)} {v : Word}
    {e : CatalogEntry} (hshort : (forms .short).isSome = true)
    (hform : (forms (lengthFor v)).map formEntry = some e) :
    valueOperand forms (some v) = .ok (e, .value v) := by
  obtain ⟨f, hf⟩ := Option.isSome_iff_exists.mp hshort
  obtain ⟨g, hg, rfl⟩ := Option.map_eq_some_iff.mp hform
  simp [valueOperand, hf, hg]

/-- The statement of a mnemonic and an operand token (R253). -/
theorem parseStatement_two {m t : List Char} {sm : SourceMnemonic} {e : CatalogEntry}
    {o : LineOperand} (hm : isName m = true) (hsm : parseMnemonic m = some sm)
    (hop : parseOperand sm t = .ok (e, o)) :
    parseStatement none [m, t] = .ok (.instr none e o) := by
  have hdash : m ≠ ['-'] := by
    rintro rfl
    exact absurd hm (by decide)
  simp [parseStatement, hdash, hsm, hop]

theorem isNameChar_of_isName {t : List Char} (h : isName t = true) :
    ∀ c ∈ t, isNameChar c = true := by
  cases t with
  | nil => cases h
  | cons d t =>
    obtain ⟨hd, ht⟩ := Bool.and_eq_true_iff.mp h
    intro c hc
    rcases List.mem_cons.mp hc with rfl | hc
    · rw [isNameChar, hd, Bool.true_or]
    · exact List.all_eq_true.mp ht c hc

/-- A line of a mnemonic, a space and one operand token is that instruction, with no label (R253). -/
theorem parseLine_mnemonic_operand {m t : List Char} {sm : SourceMnemonic} {e : CatalogEntry}
    {o : LineOperand} (hm : isName m = true) (hsm : parseMnemonic m = some sm) (ht0 : t ≠ [])
    (ht : ∀ c ∈ t, isWhite c = false ∧ c ≠ ':') (hop : parseOperand sm t = .ok (e, o)) :
    parseLine (m ++ ' ' :: t) = .ok (.instr none e o) := by
  have hname := isNameChar_of_isName hm
  have hm0 : m ≠ [] := by
    rintro rfl
    cases hm
  have hcolon : ':' ∉ m ++ ' ' :: t := by
    intro h
    rcases List.mem_append.mp h with h | h
    · exact ne_colon_of_isNameChar (hname _ h) rfl
    · rcases List.mem_cons.mp h with h | h
      · exact absurd h (by decide)
      · exact (ht _ h).2 rfl
  rw [parseLine_of_no_colon hcolon, tokens_two (fun c hc => isWhite_of_isNameChar (hname c hc)) hm0
    (fun c hc => (ht c hc).1) ht0]
  exact parseStatement_two hm hsm hop

/-- The characters of a denary number stay in one token and do not end a label. -/
theorem denary_tokenChars (w : Word) : ∀ c ∈ denary w, isWhite c = false ∧ c ≠ ':' := by
  intro c hc
  have hname := isNameChar_of_isDigit (isDigit_of_mem_denary c hc)
  exact ⟨isWhite_of_isNameChar hname, ne_colon_of_isNameChar hname⟩

theorem hash_denary_tokenChars (w : Word) : ∀ c ∈ '#' :: denary w, isWhite c = false ∧ c ≠ ':' :=
  List.forall_mem_cons.mpr ⟨by decide, denary_tokenChars w⟩

/-! ### The text of an instruction -/

theorem disassemble_immediate {i : Instr} (h : i.entry.mode = .immediate) :
    disassemble i = i.entry.mnemonic.text ++ ' ' :: '#' :: denary i.operand := by
  simp [disassemble, h]

theorem disassemble_address {i : Instr} (hv : i.entry.takesValue = true)
    (h : i.entry.mode ≠ .immediate) :
    disassemble i = i.entry.mnemonic.text ++ ' ' :: denary i.operand := by
  unfold CatalogEntry.takesValue at hv
  cases hm : i.entry.mode <;> simp_all [disassemble]

theorem disassemble_of_not_takesValue {i : Instr} (hv : i.entry.takesValue = false) :
    disassemble i = i.entry.mnemonic.text := by
  unfold CatalogEntry.takesValue at hv
  cases hm : i.entry.mode <;> simp_all [disassemble]

/-- The operand of the printed line is there exactly for the value modes. -/
theorem printedOperand_eq (i : Instr) :
    printedOperand i = if i.entry.takesValue then .value i.operand else .none := by
  unfold printedOperand CatalogEntry.takesValue
  cases i.entry.mode <;> rfl

/-- The assembler chooses the length of a canonical instruction with a value operand (R259). -/
theorem lengthFor_of_canonical {i : Instr} (hv : i.entry.takesValue = true)
    (h : i.canonical = true) : lengthFor i.operand = i.entry.length := by
  unfold CatalogEntry.takesValue at hv
  cases hl : i.entry.length with
  | short =>
    have hfits : i.operand.toNat < 256 := by
      cases hm : i.entry.mode <;> simp_all [Instr.canonical]
    exact if_neg (by omega)
  | long =>
    have hlarge : 256 ≤ i.operand.toNat := by simpa [Instr.canonical, hl] using h
    exact if_pos (by omega)

/-- Settles O57: the mnemonic is read back as the row's, the denary operand as its value, and the
canonical length selects the row; the rows without a value are their own text. -/
theorem disassemblyParsesBack : Obligations.DisassemblyParsesBack := by
  intro i hcanonical
  have hi := i.entry_mem_catalog
  rw [printedOperand_eq]
  cases hv : i.entry.takesValue with
  | false =>
    rw [disassemble_of_not_takesValue hv]
    exact catalog_parseLine_text _ hi hv
  | true =>
    obtain ⟨hname, hsm, hreg⟩ := catalog_mnemonic_text _ hi hv
    have hlen := lengthFor_of_canonical hv hcanonical
    by_cases himm : i.entry.mode = .immediate
    · obtain ⟨hshort, hform⟩ := catalog_immForm _ hi himm
      rw [← hlen] at hform
      rw [disassemble_immediate himm]
      refine parseLine_mnemonic_operand hname hsm (List.cons_ne_nil _ _) (hash_denary_tokenChars _) ?_
      simp [parseOperand, hreg, classify_hash_denary, literalValue_toNat,
        valueOperand_eq_ok hshort hform]
    · obtain ⟨hshort, hform⟩ := catalog_addrForm _ hi hv himm
      rw [← hlen] at hform
      rw [disassemble_address hv himm]
      refine parseLine_mnemonic_operand hname hsm (denary_ne_nil _) (denary_tokenChars _) ?_
      simp [parseOperand, hreg, classify_denary, bareValue_toNat, valueOperand_eq_ok hshort hform]

end Sys2Proof.Machine
end

section
/-! One call of the spec's `step()` in each step of the control unit (40_control_unit.md R102 to R108). -/

namespace Sys2Proof

open Machine

/-- The lookup finds every row of the catalog by its opcode (R75, R106). -/
theorem lookupEntry_of_mem_catalog {e : CatalogEntry} (h : e ∈ catalog) :
    lookupEntry e.opcode = some e := by
  obtain ⟨f, _, rfl⟩ := List.mem_map.mp h
  exact (f 0#16).lookupEntry_opcode

/-- The operand of a short form is the word's low byte as a number (R76). -/
theorem shortOperand_eq_ofNat (w : Word) : shortOperand w = BitVec.ofNat 16 (w.toNat % 256) := by
  apply BitVec.eq_of_toNat_eq
  rw [shortOperand_toNat, shortField_toNat, BitVec.toNat_ofNat]
  omega

end Sys2Proof

namespace Sys2Proof.Machine

section
variable {s : State}

/-- A call has one next state. -/
theorem State.rtnStep_unique {t u : State} (ht : s.rtnStep = .next t) (hu : s.rtnStep = .next u) :
    t = u :=
  Host.Outcome.next.inj (ht.symm.trans hu)

/-! ### FETCH -/

theorem State.rtnStep_fetch_zero (hphase : s.phase = .fetch) (hk : s.k = 0) :
    s.rtnStep = .next { s with mar := s.pc, k := 1 } := by
  simp [State.rtnStep, State.fetchStep, hphase, hk]

theorem State.rtnStep_fetch_one (hphase : s.phase = .fetch) (hk : s.k = 1) :
    s.rtnStep = .next (s.readThen 2) := by
  simp [State.rtnStep, State.fetchStep, hphase, hk]

theorem State.rtnStep_fetch_two (hphase : s.phase = .fetch) (hk : s.k = 2) :
    s.rtnStep = .next { s with pc := s.pc + 1, k := 3 } := by
  simp [State.rtnStep, State.fetchStep, hphase, hk]

theorem State.rtnStep_fetch_three (hphase : s.phase = .fetch) (hk : s.k = 3) :
    s.rtnStep = .next { s with cir := s.mdr, phase := .decode, k := 0 } := by
  simp [State.rtnStep, State.fetchStep, hphase, hk]

/-! ### DECODE -/

theorem State.rtnStep_decode_zero (hphase : s.phase = .decode) (hk : s.k = 0) :
    s.rtnStep = .next s.lookupStep := by
  simp [State.rtnStep, State.decodeStep, hphase, hk]

theorem State.rtnStep_decode_one (hphase : s.phase = .decode) (hk : s.k = 1) :
    s.rtnStep = .next { s with mar := s.pc, k := 2 } := by
  simp [State.rtnStep, State.decodeStep, hphase, hk]

theorem State.rtnStep_decode_two (hphase : s.phase = .decode) (hk : s.k = 2) :
    s.rtnStep = .next (s.readThen 3) := by
  simp [State.rtnStep, State.decodeStep, hphase, hk]

theorem State.rtnStep_decode_three (hphase : s.phase = .decode) (hk : s.k = 3) :
    s.rtnStep = .next { s with pc := s.pc + 1, k := 4 } := by
  simp [State.rtnStep, State.decodeStep, hphase, hk]

theorem State.rtnStep_decode_four (hphase : s.phase = .decode) (hk : s.k = 4) :
    s.rtnStep = .next { s with operand := s.mdr, phase := .execute, k := 0 } := by
  simp [State.rtnStep, State.decodeStep, hphase, hk]

/-- The lookup of a short form ends DECODE (R106). -/
theorem State.lookupStep_short {e : CatalogEntry} (he : lookupEntry (opcodeField s.cir) = some e)
    (hlen : e.length = .short) : s.lookupStep =
      { s with inst := some e, operand := shortOperand s.cir, phase := .execute, k := 0 } := by
  simp [State.lookupStep, he, hlen]

/-- The lookup of a long form goes on to its operand word (R106). -/
theorem State.lookupStep_long {e : CatalogEntry} (he : lookupEntry (opcodeField s.cir) = some e)
    (hlen : e.length = .long) : s.lookupStep = { s with inst := some e, k := 1 } := by
  simp [State.lookupStep, he, hlen]

/-! ### The reads of FETCH and DECODE -/

theorem State.readThen_of_lt (h : s.mar.toNat < s.memSize) (k : Nat) :
    s.readThen k = { s with mdr := s.word s.mar, k := k } := by
  simp [State.readThen, State.readMar, State.inBounds, h]

theorem State.readThen_of_le (h : s.memSize ≤ s.mar.toNat) (k : Nat) :
    s.readThen k = s.raise (.addressOutOfBounds s.mar) := by
  simp [State.readThen, State.readMar, State.inBounds, Nat.not_lt.mpr h]

theorem State.rtnStep_fetch_read (hphase : s.phase = .fetch) (hk : s.k = 1)
    (h : s.mar.toNat < s.memSize) : s.rtnStep = .next { s with mdr := s.word s.mar, k := 2 } := by
  rw [State.rtnStep_fetch_one hphase hk, State.readThen_of_lt h]

theorem State.rtnStep_decode_read (hphase : s.phase = .decode) (hk : s.k = 2)
    (h : s.mar.toNat < s.memSize) : s.rtnStep = .next { s with mdr := s.word s.mar, k := 3 } := by
  rw [State.rtnStep_decode_two hphase hk, State.readThen_of_lt h]

/-! ### EXECUTE -/

/-- In EXECUTE a call runs the next step of the sequence, and it is the last one if none remains
(R108). -/
theorem State.rtnStep_executing (hphase : s.phase = .execute) {e : CatalogEntry}
    (hinst : s.inst = some e) {r : RtnStep} {rs : List RtnStep} (hrs : e.rtn.drop s.k = r :: rs) :
    s.rtnStep = .next (s.executeStep e r rs.isEmpty) := by
  have hr : e.rtn[s.k]? = some r := by rw [← List.head?_drop, hrs]; rfl
  have hlen : e.rtn.length - s.k = rs.length + 1 := by rw [← List.length_drop, hrs]; rfl
  have hlast : (s.k + 1 == e.rtn.length) = rs.isEmpty := by
    rw [Bool.eq_iff_iff, beq_iff_eq, List.isEmpty_iff_length_eq_zero]
    omega
  simp [State.rtnStep, State.executeAt, hphase, hinst, hr, hlast]

end

/-! ### The obligations -/

/-- Settles O18: the equations of the first three FETCH steps, with PC + 1 as a number. -/
theorem fetchStepsFollowTheRules : Obligations.FetchStepsFollowTheRules := by
  intro s hphase
  have hpc : s.pc + 1 = BitVec.ofNat 16 ((s.pc.toNat + 1) % 65536) := by bv_omega
  refine ⟨State.rtnStep_fetch_zero hphase, State.rtnStep_fetch_read hphase, fun hk h => ?_,
    fun hk => ?_⟩
  · rw [State.rtnStep_fetch_one hphase hk, State.readThen_of_le h]; rfl
  · rw [State.rtnStep_fetch_two hphase hk, hpc]

/-- Settles O19: the equations of the last FETCH step and of the DECODE steps; the lookup finds the
row that has the opcode. -/
theorem decodeStepsFollowTheRules : Obligations.DecodeStepsFollowTheRules := by
  refine ⟨fun s => State.rtnStep_fetch_three, fun s hphase => ?_⟩
  refine ⟨fun e hk he hop => ?_, State.rtnStep_decode_one hphase,
    State.rtnStep_decode_read hphase, fun hk h => ?_, State.rtnStep_decode_three hphase,
    State.rtnStep_decode_four hphase⟩
  · have hlookup : lookupEntry (opcodeField s.cir) = some e := hop ▸ lookupEntry_of_mem_catalog he
    rw [State.rtnStep_decode_zero hphase hk, ← shortOperand_eq_ofNat]
    cases hlen : e.length with
    | short => rw [State.lookupStep_short hlookup hlen]
    | long => rw [State.lookupStep_long hlookup hlen]
  · rw [State.rtnStep_decode_two hphase hk, State.readThen_of_le h]; rfl

end Sys2Proof.Machine
end

section
/-! Runs of the spec's `step()`: through FETCH and DECODE, through a sequence of RTN steps, and from
them the model's step and the step count of an instruction (40_control_unit.md R100 to R108, R122,
log 1). -/

namespace Sys2Proof.Machine

/-! ### Runs inside a set of states -/

/-- `n` calls of `step()` lead from the first state to the second, and every state on the way but the
last one meets `P`. `State.RunIn.rtnRun` and `State.RunIn.before` tie it to `State.rtnRun`. -/
inductive State.RunIn (P : State → Prop) : State → Nat → State → Prop
  | refl (s : State) : RunIn P s 0 s
  | step {s u t : State} {n : Nat} (hs : P s) (hstep : s.rtnStep = .next u) (hrun : RunIn P u n t) :
      RunIn P s (n + 1) t

section
variable {P Q : State → Prop} {s u t : State} {m n : Nat}

theorem State.rtnRun_succ (h : s.rtnStep = .next u) (n : Nat) : s.rtnRun (n + 1) = u.rtnRun n := by
  rw [State.rtnRun, h]

theorem State.RunIn.rtnRun (h : State.RunIn P s n t) : s.rtnRun n = .next t := by
  induction h with
  | refl s => rfl
  | step _ hstep _ ih => rw [State.rtnRun_succ hstep, ih]

/-- Every state on the way meets `P`. -/
theorem State.RunIn.before (h : State.RunIn P s n t) (hm : m < n) (hu : s.rtnRun m = .next u) :
    P u := by
  induction h generalizing m with
  | refl s => exact absurd hm (Nat.not_lt_zero m)
  | step hs hstep _ ih =>
    cases m with
    | zero => exact Host.Outcome.next.inj hu ▸ hs
    | succ m =>
      rw [State.rtnRun_succ hstep] at hu
      exact ih (Nat.lt_of_succ_lt_succ hm) hu

theorem State.RunIn.trans (h : State.RunIn P s m u) (h' : State.RunIn P u n t) :
    State.RunIn P s (m + n) t := by
  induction h with
  | refl s => rwa [Nat.zero_add]
  | step hs hstep _ ih => rw [Nat.succ_add]; exact .step hs hstep (ih h')

theorem State.RunIn.mono (h : State.RunIn P s n t) (hPQ : ∀ u, P u → Q u) : State.RunIn Q s n t := by
  induction h with
  | refl s => exact .refl s
  | step hs hstep _ ih => exact .step (hPQ _ hs) hstep ih

end

/-! ### FETCH and DECODE -/

/-- The control unit is in FETCH or DECODE. -/
def State.inFront (s : State) : Prop := s.phase = .fetch ∨ s.phase = .decode

/-- The control unit is in FETCH or DECODE and not at an instruction boundary. -/
def State.midFront (s : State) : Prop := (s.phase = .fetch ∧ s.k ≠ 0) ∨ s.phase = .decode

theorem State.midFront.inFront {s : State} (h : s.midFront) : s.inFront := h.imp And.left id

theorem State.frontEnd_of_not_inFront {s : State} (h : ¬ s.inFront) (n : Nat) :
    s.frontEnd n = .next s := by
  cases n with
  | zero => rfl
  | succ n => exact if_neg h

/-- A run through FETCH and DECODE to their end is what `State.frontEnd` takes, with any fuel that is
enough for it. -/
theorem State.RunIn.frontEnd {s t : State} {m n : Nat} (h : State.RunIn State.inFront s m t)
    (ht : ¬ t.inFront) (hn : m ≤ n) : s.frontEnd n = .next t := by
  induction h generalizing n with
  | refl s => exact State.frontEnd_of_not_inFront ht n
  | step hs hstep _ ih =>
    obtain ⟨n, rfl⟩ := Nat.exists_eq_succ_of_ne_zero (Nat.ne_zero_of_lt hn)
    have hphase : _ ∨ _ := hs
    rw [State.frontEnd, if_pos hphase, hstep]
    exact ih ht (Nat.le_of_succ_le_succ hn)

/-! ### FETCH and DECODE of a known instruction -/

/-- After FETCH step 0. -/
def State.fetchStarted (s : State) : State := { s with mar := s.pc, k := 1 }

/-- At the start of DECODE: PC past the first word, which is in MDR and CIR. -/
def State.fetchDone (s : State) : State := { s.fetched .short with phase := .decode, k := 0 }

section
variable {s : State} {i : Instr}

theorem State.rtnStep_boundary (hb : s.atBoundary = true) : s.rtnStep = .next s.fetchStarted := by
  obtain ⟨hphase, hk⟩ := of_decide_eq_true hb
  exact State.rtnStep_fetch_zero hphase hk

/-- FETCH of a word inside MEM_SIZE (R102 to R105). -/
theorem State.fetch_run (hb : s.atBoundary = true) (hpc : s.inBounds s.pc = true) :
    State.RunIn State.midFront s.fetchStarted 3 s.fetchDone := by
  obtain ⟨hphase, _⟩ := of_decide_eq_true hb
  have hpc' : s.pc.toNat < s.memSize := of_decide_eq_true hpc
  exact .step (.inl ⟨hphase, Nat.succ_ne_zero 0⟩) (State.rtnStep_fetch_read hphase rfl hpc') <|
    .step (.inl ⟨hphase, Nat.succ_ne_zero 1⟩) (State.rtnStep_fetch_two hphase rfl) <|
    .step (.inl ⟨hphase, Nat.succ_ne_zero 2⟩) (State.rtnStep_fetch_three hphase rfl) <| .refl _

/-- DECODE of a short form is its lookup (R106). -/
theorem State.decode_short_run (hop : i.entry.opcode = opcodeField (s.word s.pc))
    (hlen : i.entry.length = .short) (hoperand : i.operand = shortOperand (s.word s.pc)) :
    State.RunIn State.midFront s.fetchDone 1 ((s.fetched .short).latch i) := by
  have hlookup : lookupEntry (opcodeField s.fetchDone.cir) = some i.entry :=
    hop ▸ i.lookupEntry_opcode
  have hstep : s.fetchDone.rtnStep = .next ((s.fetched .short).latch i) := by
    rw [State.rtnStep_decode_zero rfl rfl, State.lookupStep_short hlookup hlen, State.latch, hoperand]
    rfl
  exact .step (.inr rfl) hstep (.refl _)

/-- DECODE of a long form is its lookup and the read of its operand word (R106, R107). -/
theorem State.decode_long_run (hop : i.entry.opcode = opcodeField (s.word s.pc))
    (hlen : i.entry.length = .long) (hoperand : i.operand = s.word (s.pc + 1))
    (hpc : s.inBounds (s.pc + 1) = true) :
    State.RunIn State.midFront s.fetchDone 5 ((s.fetched .long).latch i) := by
  have hlookup : lookupEntry (opcodeField s.fetchDone.cir) = some i.entry :=
    hop ▸ i.lookupEntry_opcode
  have hpc' : (s.pc + 1).toNat < s.memSize := of_decide_eq_true hpc
  have hfound : s.fetchDone.rtnStep = .next { s.fetchDone with inst := some i.entry, k := 1 } := by
    rw [State.rtnStep_decode_zero rfl rfl, State.lookupStep_long hlookup hlen]
  have hend : State.RunIn State.midFront s.fetchDone 5
      { s.fetched .long with
        pc := s.pc + 1 + 1, inst := some i.entry, operand := s.word (s.pc + 1),
        phase := .execute, k := 0 } :=
    .step (.inr rfl) hfound <|
      .step (.inr rfl) (State.rtnStep_decode_one rfl rfl) <|
      .step (.inr rfl) (State.rtnStep_decode_read rfl rfl hpc') <|
      .step (.inr rfl) (State.rtnStep_decode_three rfl rfl) <|
      .step (.inr rfl) (State.rtnStep_decode_four rfl rfl) <| .refl _
  rw [BitVec.add_assoc, ← hoperand] at hend
  exact hend

/-- FETCH and DECODE of the instruction that the words at PC decode to: 4 + 1 calls, and 4 more for
a long form (R102 to R107). -/
theorem State.decoded_run {rest : List Word} (hb : s.atBoundary = true)
    (hd : decode s.fetchWords = .ok (i, rest)) (hin : s.fetchInBounds i.entry.length = true) :
    State.RunIn State.midFront s.fetchStarted (4 + if i.entry.length = .long then 4 else 0)
      ((s.fetched i.entry.length).latch i) := by
  obtain ⟨hop, ⟨hlen, hoperand, _⟩ | ⟨hlen, hwords⟩⟩ := decode_cons_eq_ok_iff.mp hd <;>
    rw [hlen] at hin ⊢
  · exact (State.fetch_run hb hin).trans (State.decode_short_run hop hlen hoperand)
  · obtain ⟨hpc, hpc'⟩ := Bool.and_eq_true_iff.mp hin
    have hoperand : i.operand = s.word (s.pc + 1) := (List.cons.inj hwords).1.symm
    exact (State.fetch_run hb hpc).trans (State.decode_long_run hop hlen hoperand hpc')

end

/-- The instruction at the end of its DECODE. -/
theorem State.decoded_latch (s : State) (i : Instr) : (s.latch i).decoded = some i := by
  obtain ⟨f, hf, hfi⟩ := i.lookupForm_opcode
  simp [State.decoded, hf, hfi]

/-- The model's step does nothing in HALT (R101). -/
theorem step_halt {s : State} (h : s.phase = .halt) : step s = .next s := by
  simp [step, h]

/-- From FETCH or DECODE the model's step is `exec` of the instruction that they end with (log 1). -/
theorem State.RunIn.step_eq_exec {s u : State} {m : Nat} (hs : s.inFront)
    (h : State.RunIn State.inFront s m u) (hm : m ≤ frontSteps) (hphase : u.phase = .execute)
    {i : Instr} (hi : u.decoded = some i) : Machine.step s = exec i u := by
  have hfront := h.frontEnd (by simp [State.inFront, hphase]) hm
  rcases hs with hs | hs <;> simp [Machine.step, hs, hfront, hphase, hi]

/-- From FETCH or DECODE the model's step stands in HALT if they end there (log 1). -/
theorem State.RunIn.step_eq_halt {s u : State} {m : Nat} (hs : s.inFront)
    (h : State.RunIn State.inFront s m u) (hm : m ≤ frontSteps) (hphase : u.phase = .halt) :
    Machine.step s = .next u := by
  have hfront := h.frontEnd (by simp [State.inFront, hphase]) hm
  rcases hs with hs | hs <;> simp [Machine.step, hs, hfront, hphase]

/-- Settles O17: FETCH and DECODE end with the instruction latched, and `exec` latches it itself. -/
theorem stepRunsTheDecodedInstruction : Obligations.StepRunsTheDecodedInstruction := by
  intro s i rest hb hd hin
  have hfront : s.inFront := .inl (of_decide_eq_true hb).1
  have hrun := State.RunIn.step hfront (State.rtnStep_boundary hb)
    ((State.decoded_run hb hd hin).mono fun _ => State.midFront.inFront)
  have hm : 4 + (if i.entry.length = .long then 4 else 0) + 1 ≤ frontSteps := by
    split <;> decide
  rw [hrun.step_eq_exec hfront hm rfl (State.decoded_latch _ i), exec_eq_execute, exec_eq_execute,
    State.execute_latch]

end Sys2Proof.Machine
end

section
/-! The model's step as a run of the spec's `step()`, and the step count of an instruction: where the
sequence of an instruction ends and after how many calls (40_control_unit.md R100, R108, R122,
log 1). -/

namespace Sys2Proof

open Machine

/-- The longest sequences have five steps (R123). -/
theorem rtn_length_le_of_mem_catalog : ∀ e ∈ catalog, e.rtn.length ≤ 5 := by decide

end Sys2Proof

namespace Sys2Proof.Machine

/-! ### EXECUTE -/

/-- The control unit is in EXECUTE. -/
def State.executing (s : State) : Prop := s.phase = .execute

/-- Where the model's step may stop: at an instruction boundary, in HALT or blocked at IN. -/
def State.atStop (s : State) : Prop := s.atBoundary = true ∨ s.phase = .halt ∨ s.blockedAtIn

/-- After its last step an instruction is at a boundary or in HALT (R108). -/
theorem State.leaveExecute_atStop (s : State) (e : CatalogEntry) : (s.leaveExecute e).atStop := by
  by_cases h : e.mnemonic = .stop
  · exact .inr (.inl (if_pos h))
  · exact .inl (decide_eq_true ⟨if_neg h, rfl⟩)

/-- The rest of a sequence is a run with one call per step; it stops early only at a blocked IN or
with an error (R108). -/
theorem State.runSteps_run {s : State} {e : CatalogEntry} {rs : List RtnStep}
    (hphase : s.phase = .execute) (hinst : s.inst = some e) (hrs : e.rtn.drop s.k = rs)
    (hne : rs ≠ []) : ∃ n ≤ rs.length, State.RunIn State.executing s n (s.runSteps e rs) ∧
      (s.runSteps e rs).atStop ∧
      (n = rs.length ∨ (s.runSteps e rs).blockedAtIn ∨ (s.runSteps e rs).err ≠ none) := by
  induction rs generalizing s with
  | nil => exact absurd rfl hne
  | cons r rs ih =>
    have hstep := State.rtnStep_executing hphase hinst hrs
    rw [State.executeStep] at hstep
    cases hr : r.run s with
    | done t =>
      rw [hr] at hstep
      rw [State.runSteps_done hr]
      cases rs with
      | nil =>
        exact ⟨1, le_refl 1, .step hphase hstep (.refl _), t.leaveExecute_atStop e, .inl rfl⟩
      | cons r' rs =>
        obtain ⟨_, hphase', hk', hinst', _⟩ := RtnStep.run_keeps hr
        have hrs' : e.rtn.drop t.nextStep.k = r' :: rs := by
          rw [State.nextStep_k, hk', ← List.drop_drop, hrs]
          rfl
        obtain ⟨n, hn, hrun, hstop, hcount⟩ :=
          ih (s := t.nextStep) (hphase'.trans hphase) (hinst'.trans hinst) hrs'
            (List.cons_ne_nil _ _)
        exact ⟨n + 1, Nat.succ_le_succ hn, .step hphase hstep hrun, hstop,
          hcount.imp_left (congrArg (· + 1))⟩
    | blocked =>
      obtain ⟨rfl, hinq⟩ := RtnStep.run_blocked hr
      have hpop : e.rtn[s.k]? = some .inPop := by rw [← List.head?_drop, hrs]; rfl
      have hblocked : s.blockedAtIn := ⟨hphase, hinq, e, hinst, hpop⟩
      rw [State.runSteps_blocked hr]
      exact ⟨0, Nat.zero_le _, .refl s, .inr (.inr hblocked), .inr (.inl hblocked)⟩
    | raises x =>
      rw [hr] at hstep
      rw [State.runSteps_raises hr]
      exact ⟨1, Nat.succ_le_succ (Nat.zero_le _), .step hphase hstep (.refl _), .inr (.inl rfl),
        .inr (.inr (Option.some_ne_none x))⟩

/-! ### The step count of an instruction -/

/-- The state is inside an instruction: not at its boundary and not in HALT. -/
def State.midInstr (s : State) : Prop := s.atBoundary = false ∧ s.phase ≠ .halt

theorem State.midFront.midInstr {s : State} (h : s.midFront) : s.midInstr := by
  rcases h with ⟨hphase, hk⟩ | hphase
  · simp [State.midInstr, State.atBoundary, hphase, hk]
  · simp [State.midInstr, State.atBoundary, hphase]

theorem State.executing.midInstr {s : State} (h : s.executing) : s.midInstr := by
  have hphase : s.phase = .execute := h
  simp [State.midInstr, State.atBoundary, hphase]

/-- An instruction keeps its own entry in INST (R106). -/
theorem State.execute_inst (s : State) (i : Instr) : (s.execute i).inst = some i.entry := by
  refine State.execute_induction (P := fun u => u.inst = some i.entry) (fun _ _ _ _ hu => hu) ?_ rfl
  intro r _ u t hu ht
  obtain ⟨_, _, _, hinst, _⟩ := RtnStep.run_keeps ht
  exact hinst.trans hu

/-- IN with a value in INQ leaves EXECUTE (R230). -/
theorem State.execute_inPop_phase {s : State} {i : Instr} (hi : i.entry.rtn = [.inPop])
    (hinq : s.inq ≠ []) : (s.execute i).phase ≠ .execute := by
  rw [State.execute, hi]
  rcases (s.latch i).popInput_cases with ⟨hq, _⟩ | ⟨v, q, _, hr⟩
  · exact absurd hq hinq
  · rw [State.runSteps_done (r := .inPop) hr]
    show (if i.entry.mnemonic = .stop then Phase.halt else Phase.fetch) ≠ .execute
    split <;> decide

/-- Only IN blocks, and only with INQ empty (R230). -/
theorem State.execute_not_blockedAtIn {s : State} {i : Instr}
    (hinq : i.entry.mnemonic = .input → s.inq ≠ []) : ¬ (s.execute i).blockedAtIn := by
  rintro ⟨hphase, _, e, hinst, hpop⟩
  obtain rfl : i.entry = e := Option.some.inj ((s.execute_inst i).symm.trans hinst)
  have hin := catalog_inq_writers _ i.entry_mem_catalog
  split at hin
  · next hm => exact State.execute_inPop_phase hin (hinq hm) hphase
  · exact hin (List.mem_flatMap.mpr ⟨.inPop, List.mem_of_getElem? hpop, by simp [RtnStep.written]⟩)

/-- An instruction that ends with no error and does not block takes one call per step of its
sequence (R108). -/
theorem State.execute_run {s : State} {i : Instr} (herr : (s.execute i).err = none)
    (hinq : i.entry.mnemonic = .input → s.inq ≠ []) :
    State.RunIn State.executing (s.latch i) i.entry.rtn.length (s.execute i) := by
  have hpos := rtn_length_pos_of_mem_catalog _ i.entry_mem_catalog
  obtain ⟨n, _, hrun, _, hcount⟩ :=
    State.runSteps_run (s := s.latch i) rfl rfl rfl (List.ne_nil_of_length_pos hpos)
  rcases hcount with hn | hblocked | hraised
  · exact hn ▸ hrun
  · exact absurd hblocked (State.execute_not_blockedAtIn hinq)
  · exact absurd herr hraised

/-- Settles O16: the first call leaves the boundary, and the run through FETCH, DECODE and EXECUTE
stays inside the instruction up to its end. -/
theorem instructionTakesItsStepCount : Obligations.InstructionTakesItsStepCount := by
  intro s t i rest hb hd hin hexec _ herr hinq
  obtain rfl := execute_of_exec hexec
  have hinq' : i.entry.mnemonic = .input → (s.fetched i.entry.length).inq ≠ [] := by
    cases i.entry.length <;> exact hinq
  have hrun : State.RunIn State.midInstr s.fetchStarted
      (4 + (if i.entry.length = .long then 4 else 0) + i.entry.rtn.length)
      ((s.fetched i.entry.length).execute i) :=
    ((State.decoded_run hb hd hin).mono fun _ => State.midFront.midInstr).trans
      ((State.execute_run herr hinq').mono fun _ => State.executing.midInstr)
  have hfirst := State.rtnRun_succ (State.rtnStep_boundary hb)
  have hcount : 4 + 1 + (if i.entry.length = .long then 4 else 0) + i.entry.rtn.length =
      4 + (if i.entry.length = .long then 4 else 0) + i.entry.rtn.length + 1 := by omega
  rw [hcount]
  refine ⟨(hfirst _).trans hrun.rtnRun, fun m u hpos hm hu => ?_⟩
  obtain ⟨m, rfl⟩ := Nat.exists_eq_succ_of_ne_zero (Nat.ne_zero_of_lt hpos)
  exact hrun.before (Nat.lt_of_succ_lt_succ hm) ((hfirst m).symm.trans hu)

/-! ### The model's step -/

/-- The calls that FETCH and DECODE may still take. -/
def State.frontLeft (s : State) : Nat :=
  match s.phase with
  | .fetch => 9 - s.k
  | .decode => 5 - s.k
  | _ => 0

theorem State.frontLeft_fetch {s : State} (h : s.phase = .fetch) : s.frontLeft = 9 - s.k := by
  rw [State.frontLeft, h]

theorem State.frontLeft_decode {s : State} (h : s.phase = .decode) : s.frontLeft = 5 - s.k := by
  rw [State.frontLeft, h]

theorem State.frontLeft_le (s : State) : s.frontLeft ≤ frontSteps := by
  unfold State.frontLeft frontSteps
  split <;> omega

/-- FETCH and DECODE have come to their end: HALT, or EXECUTE at its first step. -/
def State.frontEnded (s : State) : Prop := s.phase = .halt ∨ (s.phase = .execute ∧ s.k = 0)

/-- A read of FETCH or DECODE raises, or goes on to the step index given. -/
theorem State.readThen_cases (s : State) (k : Nat) :
    (s.readThen k).phase = .halt ∨
      ((s.readThen k).phase = s.phase ∧ (s.readThen k).k = k) := by
  rcases Nat.lt_or_ge s.mar.toNat s.memSize with h | h
  · rw [State.readThen_of_lt h]; exact .inr ⟨rfl, rfl⟩
  · rw [State.readThen_of_le h]; exact .inl rfl

/-- The call ends FETCH and DECODE or leaves fewer of their calls. -/
def State.frontMoves (s t : State) : Prop :=
  t.frontEnded ∨ (t.inFront ∧ t.frontLeft < s.frontLeft)

theorem State.frontMoves_fetch {s t : State} (hs : s.phase = .fetch) (ht : t.phase = .fetch)
    (hk : s.k < t.k) (hlt : s.k < 9) : s.frontMoves t := by
  refine .inr ⟨.inl ht, ?_⟩
  rw [State.frontLeft_fetch hs, State.frontLeft_fetch ht]
  omega

theorem State.frontMoves_decode {s t : State} (hs : s.phase = .decode) (ht : t.phase = .decode)
    (hk : s.k < t.k) (hlt : s.k < 5) : s.frontMoves t := by
  refine .inr ⟨.inr ht, ?_⟩
  rw [State.frontLeft_decode hs, State.frontLeft_decode ht]
  omega

/-- The last FETCH step leaves DECODE its five calls (R105). -/
theorem State.frontMoves_fetch_decode {s t : State} (hs : s.phase = .fetch) (hk : s.k = 3)
    (ht : t.phase = .decode) (hk' : t.k = 0) : s.frontMoves t := by
  refine .inr ⟨.inr ht, ?_⟩
  rw [State.frontLeft_fetch hs, State.frontLeft_decode ht]
  omega

theorem State.Inv.fetch_k_lt {s : State} (h : s.Inv) (hphase : s.phase = .fetch) : s.k < 4 := by
  simpa [State.controlLegal, hphase] using h.control

theorem State.Inv.decode_k_lt {s : State} (h : s.Inv) (hphase : s.phase = .decode) : s.k < 5 := by
  have hctl : s.k = 0 ∨ (s.k < 5 ∧ ∃ e, s.inst = some e ∧ e.length = .long) := by
    simpa [State.controlLegal, hphase] using h.control
  omega

theorem State.Inv.frontLeft_pos {s : State} (h : s.Inv) (hs : s.inFront) : 0 < s.frontLeft := by
  rcases hs with hphase | hphase
  · have := h.fetch_k_lt hphase
    rw [State.frontLeft_fetch hphase]
    omega
  · have := h.decode_k_lt hphase
    rw [State.frontLeft_decode hphase]
    omega

/-- From a state of the invariant every call in FETCH moves on (R102 to R105). -/
theorem State.Inv.fetch_moves {s t : State} (h : s.Inv) (hphase : s.phase = .fetch)
    (hstep : s.rtnStep = .next t) : s.frontMoves t := by
  match hk : s.k, h.fetch_k_lt hphase with
  | 0, _ =>
    obtain rfl := State.rtnStep_unique (State.rtnStep_fetch_zero hphase hk) hstep
    exact State.frontMoves_fetch hphase hphase (by simp [hk]) (by omega)
  | 1, _ =>
    obtain rfl := State.rtnStep_unique (State.rtnStep_fetch_one hphase hk) hstep
    rcases s.readThen_cases 2 with ht | ⟨ht, hk'⟩
    · exact .inl (.inl ht)
    · exact State.frontMoves_fetch hphase (ht.trans hphase) (by omega) (by omega)
  | 2, _ =>
    obtain rfl := State.rtnStep_unique (State.rtnStep_fetch_two hphase hk) hstep
    exact State.frontMoves_fetch hphase hphase (by simp [hk]) (by omega)
  | 3, _ =>
    obtain rfl := State.rtnStep_unique (State.rtnStep_fetch_three hphase hk) hstep
    exact State.frontMoves_fetch_decode hphase hk rfl rfl

/-- The lookup raises, ends DECODE, or goes on to DECODE step 1 (R106). -/
theorem State.lookupStep_moves {s : State} (hphase : s.phase = .decode) (hk : s.k = 0) :
    s.frontMoves s.lookupStep := by
  rcases s.lookupStep_cases with hs | ⟨e, _, ⟨_, hs⟩ | ⟨_, hs⟩⟩ <;> rw [hs]
  · exact .inl (.inl rfl)
  · exact .inl (.inr ⟨rfl, rfl⟩)
  · exact State.frontMoves_decode hphase hphase (by simp [hk]) (by omega)

/-- From a state of the invariant every call in DECODE moves on (R106, R107). -/
theorem State.Inv.decode_moves {s t : State} (h : s.Inv) (hphase : s.phase = .decode)
    (hstep : s.rtnStep = .next t) : s.frontMoves t := by
  match hk : s.k, h.decode_k_lt hphase with
  | 0, _ =>
    obtain rfl := State.rtnStep_unique (State.rtnStep_decode_zero hphase hk) hstep
    exact State.lookupStep_moves hphase hk
  | 1, _ =>
    obtain rfl := State.rtnStep_unique (State.rtnStep_decode_one hphase hk) hstep
    exact State.frontMoves_decode hphase hphase (by simp [hk]) (by omega)
  | 2, _ =>
    obtain rfl := State.rtnStep_unique (State.rtnStep_decode_two hphase hk) hstep
    rcases s.readThen_cases 3 with ht | ⟨ht, hk'⟩
    · exact .inl (.inl ht)
    · exact State.frontMoves_decode hphase (ht.trans hphase) (by omega) (by omega)
  | 3, _ =>
    obtain rfl := State.rtnStep_unique (State.rtnStep_decode_three hphase hk) hstep
    exact State.frontMoves_decode hphase hphase (by simp [hk]) (by omega)
  | 4, _ =>
    obtain rfl := State.rtnStep_unique (State.rtnStep_decode_four hphase hk) hstep
    exact .inl (.inr ⟨rfl, rfl⟩)

/-- From a state of the invariant FETCH and DECODE come to their end, by induction on the calls they
may still take. -/
theorem State.Inv.front_run {s : State} (h : s.Inv) (hs : s.inFront) :
    ∃ m ≤ s.frontLeft, ∃ u, State.RunIn State.inFront s m u ∧ u.Inv ∧ u.frontEnded := by
  induction hleft : s.frontLeft using Nat.strong_induction_on generalizing s with
  | h left ih =>
    obtain ⟨t, hstep, ht⟩ := h.rtnStep
    have hmoves : s.frontMoves t := hs.elim (h.fetch_moves · hstep) (h.decode_moves · hstep)
    rcases hmoves with hend | ⟨hfront, hlt⟩
    · exact ⟨1, hleft ▸ h.frontLeft_pos hs, t, .step hs hstep (.refl t), ht, hend⟩
    · obtain ⟨m, hm, u, hrun, hu, hend⟩ := ih t.frontLeft (hleft ▸ hlt) ht hfront rfl
      exact ⟨m + 1, by omega, u, .step hs hstep hrun, hu, hend⟩

/-- At the first step of EXECUTE the instruction in INST and OPERAND is latched. -/
theorem State.Inv.latch_decoded {s : State} (h : s.Inv) (hphase : s.phase = .execute)
    (hk : s.k = 0) {i : Instr} (hi : s.decoded = some i) :
    s.latch i = s ∧ s.inst = some i.entry := by
  obtain ⟨e, hinst, _⟩ := h.executing hphase
  have hform : (lookupForm e.opcode).map (fun f => f s.operand) = some i := by
    simpa [State.decoded, hinst] using hi
  obtain ⟨f, hf, rfl⟩ := Option.map_eq_some_iff.mp hform
  obtain ⟨_, hoperand, hop⟩ := lookupForm_apply hf s.operand
  have hentry : (f s.operand).entry = e :=
    Option.some.inj <| by
      rw [← Instr.lookupEntry_opcode, hop, lookupEntry_of_mem_catalog (h.instKnown e hinst)]
  rw [State.latch, hentry, hoperand, ← hinst, ← hphase, ← hk]
  exact ⟨rfl, rfl⟩

/-- At the first step of EXECUTE the rest of the instruction is the whole of it. -/
theorem State.Inv.resume_eq_exec {s : State} (h : s.Inv) (hphase : s.phase = .execute)
    (hk : s.k = 0) {i : Instr} (hi : s.decoded = some i) : s.resume = exec i s := by
  obtain ⟨hlatch, hinst⟩ := h.latch_decoded hphase hk hi
  have hpos := rtn_length_pos_of_mem_catalog _ i.entry_mem_catalog
  rw [exec_eq_execute, State.execute, hlatch]
  simp [State.resume, hinst, hk, hpos]

/-- The rest of an instruction is a run of at most five calls (R108). -/
theorem State.Inv.resume_run {s : State} (h : s.Inv) (hphase : s.phase = .execute) :
    ∃ n ≤ 5, ∃ t, s.resume = .next t ∧ s.rtnRun n = .next t ∧ t.atStop := by
  obtain ⟨e, hinst, hlt⟩ := h.executing hphase
  have hlen : (e.rtn.drop s.k).length = e.rtn.length - s.k := List.length_drop
  have hmax := rtn_length_le_of_mem_catalog e (h.instKnown e hinst)
  obtain ⟨n, hn, hrun, hstop, _⟩ :=
    State.runSteps_run hphase hinst rfl (List.ne_nil_of_length_pos (by omega))
  exact ⟨n, by omega, _, by simp [State.resume, hinst, hlt], hrun.rtnRun, hstop⟩

/-- FETCH and DECODE are a run of at most nine calls, and the instruction they end with one of at
most five. -/
theorem State.Inv.step_front_run {s : State} (h : s.Inv) (hs : s.inFront) :
    ∃ n t, n ≤ 14 ∧ Machine.step s = .next t ∧ s.rtnRun n = .next t ∧ t.atStop := by
  obtain ⟨m, hm, u, hrun, hu, hend⟩ := h.front_run hs
  have hfuel : m ≤ frontSteps := hm.trans s.frontLeft_le
  rcases hend with hphase | ⟨hphase, hk⟩
  · exact ⟨m, u, hfuel.trans (by decide), hrun.step_eq_halt hs hfuel hphase, hrun.rtnRun,
      .inr (.inl hphase)⟩
  · obtain ⟨i, hi⟩ := hu.decoded hphase
    obtain ⟨n, hn, t, hresume, hrun', hstop⟩ := hu.resume_run hphase
    refine ⟨m + n, t, Nat.add_le_add hfuel hn, ?_, ?_, hstop⟩
    · rw [hrun.step_eq_exec hs hfuel hphase hi, ← hu.resume_eq_exec hphase hk hi, hresume]
    · rw [State.rtnRun_add hrun.rtnRun, hrun']

/-- Settles O15, by the phase of the control unit. -/
theorem stepIsABoundedRunOfRtnSteps : Obligations.StepIsABoundedRunOfRtnSteps := by
  intro s h
  cases hphase : s.phase with
  | halt => exact ⟨0, s, Nat.zero_le _, step_halt hphase, rfl, .inr (.inl hphase)⟩
  | execute =>
    obtain ⟨n, hn, t, hresume, hrun, hstop⟩ := h.resume_run hphase
    exact ⟨n, t, hn.trans (by decide), (step_execute hphase).trans hresume, hrun, hstop⟩
  | fetch => exact h.step_front_run (.inl hphase)
  | decode => exact h.step_front_run (.inr hphase)

end Sys2Proof.Machine
end

section
/-! What the ALU computes: its results as arithmetic, its flags as bits and as ranges (40_control_unit.md
R113 to R118). -/

namespace Sys2Proof

/-- Narrowing is the mathematical modulo 65536 (R10). -/
theorem toNat_wrap16 (v : Int) : ((wrap16 v).toNat : Int) = v % 65536 := by
  rw [wrap16, BitVec.toNat_ofInt]
  omega

end Sys2Proof

namespace Sys2Proof.Machine

/-! ### The flags common to every operation -/

/-- Z says that the result is 0, N is its bit 15 (R118). -/
theorem compute_zn (op : AluOp) (a b : Word) :
    (compute op a b).z = decide ((compute op a b).result = 0) ∧
      (compute op a b).n = (compute op a b).result.getLsbD 15 := by
  cases op <;> exact ⟨rfl, rfl⟩

theorem compute_z_iff (op : AluOp) (a b : Word) :
    (compute op a b).z = true ↔ (compute op a b).result = 0 := by
  rw [(compute_zn op a b).1, decide_eq_true_iff]

theorem compute_n (op : AluOp) (a b : Word) :
    (compute op a b).n = (compute op a b).result.getLsbD 15 :=
  (compute_zn op a b).2

/-- Outside addition, subtraction and compare C and V are false (D8). -/
theorem compute_cv_eq_false {op : AluOp} (h : op ∉ [AluOp.add, .subtract, .compare]) (a b : Word) :
    (compute op a b).c = false ∧ (compute op a b).v = false := by
  cases op with
  | add | subtract | compare => simp at h
  | _ => exact ⟨rfl, rfl⟩

theorem signBit_eq_msb (w : Word) : signBit w = w.msb := w.msb_eq_getLsbD_last.symm

/-! ### Addition -/

theorem computeAdd_result (a b : Word) : (computeAdd a b).result = a + b := (BitVec.add_def a b).symm

/-- The bit formula of V in terms of the library's signed overflow (R113). -/
theorem computeAdd_v (a b : Word) : (computeAdd a b).v = a.saddOverflow b := by
  change (signBit a == signBit b && signBit (computeAdd a b).result != signBit a) = _
  rw [computeAdd_result, BitVec.saddOverflow_eq, signBit_eq_msb, signBit_eq_msb, signBit_eq_msb]
  rfl

/-- Settles O30: the bit formula of V is `computeAdd`'s own, its range the signed sum's. -/
theorem aluAddition : Obligations.AluAddition := by
  intro a b
  refine ⟨?_, compute_z_iff .add a b, compute_n .add a b, decide_eq_true_iff, ?_, ?_⟩
  · exact BitVec.toNat_ofNat (a.toNat + b.toNat) 16
  · simp [compute, computeAdd, aluOut, signBit]
  · change (computeAdd a b).v = true ↔ _
    rw [computeAdd_v, BitVec.saddOverflow, Bool.or_eq_true, decide_eq_true_iff, decide_eq_true_iff]
    omega

/-! ### Subtraction and compare -/

theorem computeSub_toNat (a b : Word) :
    ((computeSub a b).result.toNat : Int) = ((a.toNat : Int) - (b.toNat : Int)) % 65536 :=
  toNat_wrap16 _

theorem computeSub_result (a b : Word) : (computeSub a b).result = a - b := by
  have h := computeSub_toNat a b
  bv_omega

/-- The bit formula of V in terms of the library's signed overflow (R114). -/
theorem computeSub_v (a b : Word) : (computeSub a b).v = a.ssubOverflow b := by
  change (signBit a != signBit b && signBit (computeSub a b).result != signBit a) = _
  rw [computeSub_result, BitVec.ssubOverflow_eq, signBit_eq_msb, signBit_eq_msb, signBit_eq_msb]
  cases a.msb <;> cases b.msb <;> cases (a - b).msb <;> rfl

/-- The difference is 0 exactly for equal operands (R115). -/
theorem comparisonTrue_eq_z (a b : Word) : comparisonTrue a b = (computeSub a b).z := by
  have hz : (computeSub a b).z = decide ((computeSub a b).result = 0) := rfl
  rw [hz, computeSub_result, comparisonTrue, decide_eq_decide, sub_eq_zero]

/-- Settles O31: compare computes as subtract does; the range of V is the signed difference's. -/
theorem aluSubtractionAndCompare : Obligations.AluSubtractionAndCompare := by
  intro a b op hop
  have hcompute : compute op a b = computeSub a b := by
    rcases List.mem_pair.mp hop with rfl | rfl <;> rfl
  have hz := compute_z_iff op a b
  have hn := compute_n op a b
  rw [hcompute] at hz hn ⊢
  refine ⟨computeSub_toNat a b, hz, hn, decide_eq_true_iff, ?_, ?_, comparisonTrue_eq_z a b⟩
  · simp [computeSub, aluOut, signBit]
  · rw [computeSub_v, BitVec.ssubOverflow, Bool.or_eq_true, decide_eq_true_iff, decide_eq_true_iff]
    omega

/-! ### Logic -/

/-- Settles O32: the bits are those of the library's operations. -/
theorem aluLogicWorksBitByBit : Obligations.AluLogicWorksBitByBit := by
  intro a b j _
  have hlogic : ∀ op ∈ [AluOp.and, AluOp.or, AluOp.xor], op ∉ [AluOp.add, .subtract, .compare] := by
    decide
  exact ⟨BitVec.getLsbD_and, BitVec.getLsbD_or, BitVec.getLsbD_xor, fun op hop =>
    ⟨compute_z_iff op a b, compute_n op a b, compute_cv_eq_false (hlogic op hop) a b⟩⟩

/-! ### Shifts -/

/-- Settles O33: the library's shifts as multiplication and division (R117, D9). -/
theorem aluShiftsScaleByPowersOfTwo : Obligations.AluShiftsScaleByPowersOfTwo := by
  intro a n
  have hshift : ∀ op ∈ [AluOp.shiftLeft, AluOp.shiftRight],
      op ∉ [AluOp.add, .subtract, .compare] := by decide
  refine ⟨?_, ?_, fun h => ⟨BitVec.shiftLeft_eq_zero h, BitVec.ushiftRight_eq_zero h⟩,
    fun op hop => ⟨compute_z_iff op a n, compute_n op a n, compute_cv_eq_false (hshift op hop) a n⟩⟩
  · show (a <<< n.toNat).toNat = _
    rw [BitVec.toNat_shiftLeft, Nat.shiftLeft_eq]
  · show (a >>> n.toNat).toNat = _
    rw [BitVec.toNat_ushiftRight, Nat.shiftRight_eq_div_pow]

/-! ### Every operation -/

/-- Settles O34: the common flags, the difference of a compare, and an ALU step always completes. -/
theorem flagsCommonToEveryOperation : Obligations.FlagsCommonToEveryOperation := by
  intro op a b
  obtain ⟨hz, hn⟩ := compute_zn op a b
  exact ⟨hz, hn, computeSub_result a b, fun s src => ⟨_, rfl, s.err_aluStep op _⟩⟩

end Sys2Proof.Machine
end

section
/-! HALT is left only by a load: no other action of the host changes the CPU there (40_control_unit.md
R101, 50_assembler.md R264, 60_exceptions.md R310, 70_reset_and_hazards.md R331). -/

namespace Sys2Proof.Machine

/-! ### What the host's actions leave -/

/-- The second state is the first but for memory, the input queue and the assembler. -/
def State.SameCpu (s t : State) : Prop := t = { s with mem := t.mem, inq := t.inq, asm := t.asm }

theorem State.SameCpu.refl (s : State) : s.SameCpu s := rfl

theorem State.SameCpu.trans {s t u : State} (hst : s.SameCpu t) (htu : t.SameCpu u) :
    s.SameCpu u := by
  unfold State.SameCpu at hst htu ⊢
  rw [hst] at htu
  exact htu

theorem State.SameCpu.phase {s t : State} (h : s.SameCpu t) : t.phase = s.phase := by
  unfold State.SameCpu at h
  rw [h]

/-- The assembler writes memory and its own state alone (R264). -/
theorem State.asmStep_sameCpu (s : State) : s.SameCpu s.asmStep := by
  unfold State.asmStep
  cases s.asm with
  | none => exact .refl s
  | some a => rfl

/-- In HALT an action that is no load leaves the CPU as it is (R101, R264, R310, R334). -/
theorem State.act_sameCpu {s t : State} (hphase : s.phase = .halt) {a : HostAction}
    (ha : a.isLoad = false) (h : s.act a = .next t) : s.SameCpu t := by
  cases a with
  | cpuStep =>
    obtain rfl := State.rtnStep_unique (State.rtnStep_halt hphase) h
    exact .refl s
  | load words start => cases ha
  | newAssembler lines => obtain rfl := Host.Outcome.next.inj h; rfl
  | asmStep => obtain rfl := Host.Outcome.next.inj h; exact s.asmStep_sameCpu
  | pushInput v => obtain rfl := Host.Outcome.next.inj h; rfl

/-- In HALT a sequence of actions with no load among them leaves the CPU as it is, by induction on
the sequence: HALT stays. -/
theorem State.acts_sameCpu {s t : State} (hphase : s.phase = .halt) {as : List HostAction}
    (has : as.all (fun a => !a.isLoad) = true) (h : s.acts as = .next t) : s.SameCpu t := by
  induction as generalizing s with
  | nil => obtain rfl := Host.Outcome.next.inj h; exact .refl s
  | cons a as ih =>
    obtain ⟨ha, has⟩ := Bool.and_eq_true_iff.mp has
    rw [State.acts] at h
    cases hact : s.act a with
    | next u =>
      rw [hact] at h
      have hu : s.SameCpu u := State.act_sameCpu hphase (Bool.not_eq_true' _ ▸ ha) hact
      exact hu.trans (ih (hu.phase.trans hphase) has h)
    | fault f => rw [hact] at h; cases h
    | refused r => rw [hact] at h; cases h

/-- A load that is not refused leaves the control unit in FETCH (R331). -/
theorem State.load_phase {s t : State} {words : List Word} {start : Word}
    (h : s.load words start = .loaded t) : t.phase = .fetch := by
  rcases s.load_cases words start with ⟨_, hload, _⟩ | ⟨_, hload, _⟩ <;> rw [hload] at h
  · obtain rfl := LoadResult.loaded.inj h; rfl
  · cases h

/-- Settles O10, by induction over the host's actions: none but a load leaves HALT. -/
theorem haltIsLeftOnlyByLoad : Obligations.HaltIsLeftOnlyByLoad := by
  intro s hphase
  exact ⟨State.rtnStep_halt hphase, decide_eq_true hphase, step_halt hphase,
    fun _ _ has h => State.acts_sameCpu hphase has h, fun _ _ _ h => State.load_phase h⟩

end Sys2Proof.Machine
end

section
/-! The data movement instructions as whole next states, from one rule per place of a step in its
sequence and one per operand form (40_control_unit.md R108 to R111, 41_data_movement.md R150 to
R157). -/

namespace Sys2Proof.Machine

/-! ### The forms of an instruction -/

/-- What the short and the long form share, the sequence and the operand, either form has (R71, R72,
R75). -/
theorem Instr.rtn_operand_of_mem_forms {i short long : Instr} (hi : i ∈ [short, long])
    {rs : List RtnStep} {n : Word} (hshort : short.entry.rtn = rs ∧ short.operand = n)
    (hlong : long.entry.rtn = rs ∧ long.operand = n) : i.entry.rtn = rs ∧ i.operand = n := by
  rcases List.mem_pair.mp hi with rfl | rfl
  · exact hshort
  · exact hlong

/-- Only END's sequence halts (R233). -/
theorem catalog_stop_rtn : ∀ e ∈ catalog, e.mnemonic = .stop → .halt ∈ e.rtn := by decide

/-! ### Memory accesses at MAR -/

theorem State.readMar_of_lt {s : State} (h : s.mar.toNat < s.memSize) :
    s.readMar = .done { s with mdr := s.word s.mar } :=
  if_pos (decide_eq_true h)

theorem State.readMar_of_le {s : State} (h : s.memSize ≤ s.mar.toNat) :
    s.readMar = .raises (.addressOutOfBounds s.mar) :=
  if_neg (by simpa [State.inBounds] using h)

theorem State.writeMar_of_lt {s : State} (h : s.mar.toNat < s.memSize) :
    s.writeMar = .done { s with mem := s.mem.write s.mar.toNat s.mdr } :=
  if_pos (decide_eq_true h)

theorem State.writeMar_of_le {s : State} (h : s.memSize ≤ s.mar.toNat) :
    s.writeMar = .raises (.addressOutOfBounds s.mar) :=
  if_neg (by simpa [State.inBounds] using h)

/-! ### The steps of one instruction -/

/-- The machine in EXECUTE of an instruction, at its step `k` (R108). -/
def State.atStep (s : State) (i : Instr) (k : Nat) : State := { s.latch i with k := k }

/-- EXECUTE of an instruction starts at step 0 of its sequence (R107). -/
theorem State.execute_eq_runSteps {s : State} {i : Instr} {rs : List RtnStep}
    (hi : i.entry.rtn = rs) : s.execute i = (s.atStep i 0).runSteps i.entry rs := by
  rw [State.execute, hi]
  rfl

section
variable {s t : State} {i : Instr} {k : Nat} {r r' : RtnStep} {rs : List RtnStep}

/-- A completed step that is not the last goes on to the next one (R108). -/
theorem State.runSteps_atStep_next (h : r.run (s.atStep i k) = .done (t.atStep i k)) :
    (s.atStep i k).runSteps i.entry (r :: r' :: rs) =
      (t.atStep i (k + 1)).runSteps i.entry (r' :: rs) := by
  rw [State.runSteps_done h]
  rfl

/-- An instruction other than END leaves EXECUTE for the next FETCH (R108). -/
theorem State.leaveExecute_atStep (hstop : i.entry.mnemonic ≠ .stop) :
    (s.atStep i k).leaveExecute i.entry = s.finished i := by
  rw [State.leaveExecute, if_neg hstop]
  rfl

/-- A completed last step finishes an instruction that does not halt (R108). -/
theorem State.runSteps_atStep_last (h : r.run (s.atStep i k) = .done (t.atStep i k))
    (hhalt : .halt ∉ i.entry.rtn) : (s.atStep i k).runSteps i.entry [r] = t.finished i := by
  rw [State.runSteps_done h]
  exact State.leaveExecute_atStep fun hstop =>
    hhalt (catalog_stop_rtn _ i.entry_mem_catalog hstop)

/-- A memory access at an address outside memory stops the instruction (R301, R303). -/
theorem State.runSteps_atStep_raises {a : Word}
    (h : r.run (s.atStep i k) = .raises (.addressOutOfBounds a)) :
    (s.atStep i k).runSteps i.entry (r :: rs) = s.outOfBounds i a := by
  rw [State.runSteps_raises h]
  rfl

/-- A step that puts an address inside memory into MAR, then a read: the word there is in MDR
(R109, R111). -/
theorem State.runSteps_readAt_of_lt (hmar : r.run (s.atStep i k) = .done (t.atStep i k))
    (h : t.mar.toNat < t.memSize) :
    (s.atStep i k).runSteps i.entry (r :: .memRead :: r' :: rs) =
      ((t.withDirect t.mar).atStep i (k + 2)).runSteps i.entry (r' :: rs) :=
  (State.runSteps_atStep_next hmar).trans
    (State.runSteps_atStep_next (t := t.withDirect t.mar) (State.readMar_of_lt h))

/-- A step that puts an address outside memory into MAR, then a read: the instruction stops there
(R301). -/
theorem State.runSteps_readAt_of_le (hmar : r.run (s.atStep i k) = .done (t.atStep i k))
    (h : t.memSize ≤ t.mar.toNat) :
    (s.atStep i k).runSteps i.entry (r :: .memRead :: rs) = t.outOfBounds i t.mar :=
  (State.runSteps_atStep_next hmar).trans (State.runSteps_atStep_raises (State.readMar_of_le h))

/-! ### The operand forms -/

/-- The direct form puts the operand into MAR and the word there into MDR (R111). -/
theorem State.runSteps_direct_of_lt (h : i.operand.toNat < s.memSize) :
    (s.atStep i k).runSteps i.entry (directSteps ++ r :: rs) =
      ((s.withDirect i.operand).atStep i (k + 2)).runSteps i.entry (r :: rs) :=
  State.runSteps_readAt_of_lt (t := { s with mar := i.operand }) rfl h

/-- The direct form stops with MAR alone changed if the operand lies outside memory (R111, R301). -/
theorem State.runSteps_direct_of_le (h : s.memSize ≤ i.operand.toNat) :
    (s.atStep i k).runSteps i.entry (directSteps ++ rs) =
      State.outOfBounds { s with mar := i.operand } i i.operand :=
  State.runSteps_readAt_of_le (t := { s with mar := i.operand }) rfl h

/-- The indirect form is the direct form, then a read at the pointer in MDR (R111). -/
theorem indirectSteps_append (rs : List RtnStep) :
    indirectSteps ++ rs = directSteps ++ .transfer .mar .mdr :: .memRead :: rs := rfl

/-- The indirect form reads the word at the address that the pointer word holds (R111). -/
theorem State.runSteps_indirect_of_lt (h : i.operand.toNat < s.memSize)
    (hp : (s.word i.operand).toNat < s.memSize) :
    (s.atStep i k).runSteps i.entry (indirectSteps ++ r :: rs) =
      ((s.withDirect (s.word i.operand)).atStep i (k + 4)).runSteps i.entry (r :: rs) := by
  rw [indirectSteps_append, State.runSteps_direct_of_lt h]
  exact State.runSteps_readAt_of_lt
    (t := { s.withDirect i.operand with mar := s.word i.operand }) rfl hp

/-- The indirect form stops before the second read if the pointer lies outside memory: it is in MAR
and MDR (R111, R301). -/
theorem State.runSteps_indirect_of_pointer_le (h : i.operand.toNat < s.memSize)
    (hp : s.memSize ≤ (s.word i.operand).toNat) :
    (s.atStep i k).runSteps i.entry (indirectSteps ++ rs) =
      State.outOfBounds { s with mar := s.word i.operand, mdr := s.word i.operand } i
        (s.word i.operand) := by
  rw [indirectSteps_append, State.runSteps_direct_of_lt h]
  exact State.runSteps_readAt_of_le
    (t := { s.withDirect i.operand with mar := s.word i.operand }) rfl hp

/-- The indexed form reads the word at OPERAND + IX (R111). -/
theorem State.runSteps_indexed_of_lt (h : (indexedAddress i.operand s.ix).toNat < s.memSize) :
    (s.atStep i k).runSteps i.entry (indexedSteps ++ r :: rs) =
      ((s.withDirect (indexedAddress i.operand s.ix)).atStep i (k + 2)).runSteps i.entry
        (r :: rs) :=
  State.runSteps_readAt_of_lt (t := { s with mar := indexedAddress i.operand s.ix }) rfl h

/-- The indexed form stops with MAR alone changed if OPERAND + IX lies outside memory (R111,
R301). -/
theorem State.runSteps_indexed_of_le (h : s.memSize ≤ (indexedAddress i.operand s.ix).toNat) :
    (s.atStep i k).runSteps i.entry (indexedSteps ++ rs) =
      State.outOfBounds { s with mar := indexedAddress i.operand s.ix } i
        (indexedAddress i.operand s.ix) :=
  State.runSteps_readAt_of_le (t := { s with mar := indexedAddress i.operand s.ix }) rfl h

/-- The indexed address is the sum modulo 65536 (R109, D14). -/
theorem indexedAddress_eq_ofNat (n x : Word) :
    indexedAddress n x = BitVec.ofNat 16 ((n.toNat + x.toNat) % 65536) := by
  apply BitVec.eq_of_toNat_eq
  rw [indexedAddress, BitVec.toNat_add, BitVec.toNat_ofNat, Nat.mod_mod]

/-- The store form puts the operand into MAR and ACC into MDR, then writes there (R111). -/
theorem State.runSteps_store :
    (s.atStep i k).runSteps i.entry storeSteps =
      (({ s with mar := i.operand, mdr := s.acc } : State).atStep i (k + 2)).runSteps i.entry
        [.memWrite] :=
  (State.runSteps_atStep_next (t := { s with mar := i.operand }) rfl).trans
    (State.runSteps_atStep_next (t := { s with mar := i.operand, mdr := s.acc }) rfl)

/-! ### Whole instructions -/

/-- A meaning answers the end of its instruction's EXECUTE. -/
theorem exec_of_execute (h : s.execute i = t) : exec i s = .next t := by
  rw [exec_eq_execute, h]

/-- An instruction of one step that does not halt ends with that step's effect (R108). -/
theorem State.execute_single (hi : i.entry.rtn = [r])
    (h : r.run (s.atStep i 0) = .done (t.atStep i 0)) (hhalt : r ≠ .halt) :
    s.execute i = t.finished i := by
  rw [State.execute_eq_runSteps hi]
  exact State.runSteps_atStep_last h (by simpa [hi] using hhalt.symm)

end

/-! ### The obligations -/

/-- Settles O35: one transfer of OPERAND into ACC. -/
theorem ldmLoadsTheImmediate : Obligations.LdmLoadsTheImmediate := by
  intro s n i hi
  obtain ⟨hrtn, rfl⟩ : i.entry.rtn = rtnLdm ∧ i.operand = n :=
    Instr.rtn_operand_of_mem_forms hi ⟨rfl, rfl⟩ ⟨rfl, rfl⟩
  exact exec_of_execute (State.execute_single hrtn rfl (by decide))

/-- Settles O39: one transfer into IX, of OPERAND or of ACC. -/
theorem ldrAndMovIxWriteTheIndex : Obligations.LdrAndMovIxWriteTheIndex := by
  intro s n
  constructor
  · intro i hi
    obtain ⟨hrtn, rfl⟩ : i.entry.rtn = rtnLdr ∧ i.operand = n :=
      Instr.rtn_operand_of_mem_forms hi ⟨rfl, rfl⟩ ⟨rfl, rfl⟩
    exact exec_of_execute (State.execute_single hrtn rfl (by decide))
  · exact exec_of_execute (State.execute_single (r := .transfer .ix .acc) rfl rfl (by decide))

/-- Settles O36: the direct form, then MDR into ACC; or the direct form stops. -/
theorem lddLoadsTheDirectWord : Obligations.LddLoadsTheDirectWord := by
  intro s a i hi
  obtain ⟨hrtn, rfl⟩ : i.entry.rtn = rtnLdd ∧ i.operand = a :=
    Instr.rtn_operand_of_mem_forms hi ⟨rfl, rfl⟩ ⟨rfl, rfl⟩
  refine ⟨fun h => exec_of_execute ?_, fun h => exec_of_execute ?_⟩ <;>
    rw [State.execute_eq_runSteps hrtn, rtnLdd]
  · rw [State.runSteps_direct_of_lt h]
    exact State.runSteps_atStep_last rfl (by rw [hrtn]; decide)
  · exact State.runSteps_direct_of_le h

/-- Settles O37: the indirect form, then MDR into ACC; or its first or its second read stops it. -/
theorem ldiLoadsThroughThePointer : Obligations.LdiLoadsThroughThePointer := by
  intro s a i hi
  obtain ⟨hrtn, rfl⟩ : i.entry.rtn = rtnLdi ∧ i.operand = a :=
    Instr.rtn_operand_of_mem_forms hi ⟨rfl, rfl⟩ ⟨rfl, rfl⟩
  refine ⟨fun h hp => exec_of_execute ?_, fun h => exec_of_execute ?_,
    fun h hp => exec_of_execute ?_⟩ <;> rw [State.execute_eq_runSteps hrtn, rtnLdi]
  · rw [State.runSteps_indirect_of_lt h hp]
    exact State.runSteps_atStep_last rfl (by rw [hrtn]; decide)
  · rw [indirectSteps_append]
    exact State.runSteps_direct_of_le h
  · exact State.runSteps_indirect_of_pointer_le h hp

/-- Settles O38: the indexed form, then MDR into ACC; or the indexed form stops. The address is
already wrapped when its bound is checked. -/
theorem ldxLoadsTheIndexedWord : Obligations.LdxLoadsTheIndexedWord := by
  intro s n a ha i hi
  obtain ⟨hrtn, rfl⟩ : i.entry.rtn = rtnLdx ∧ i.operand = n :=
    Instr.rtn_operand_of_mem_forms hi ⟨rfl, rfl⟩ ⟨rfl, rfl⟩
  obtain rfl : a = indexedAddress i.operand s.ix := ha.trans (indexedAddress_eq_ofNat _ _).symm
  refine ⟨fun h => exec_of_execute ?_, fun h => exec_of_execute ?_⟩ <;>
    rw [State.execute_eq_runSteps hrtn, rtnLdx]
  · rw [State.runSteps_indexed_of_lt h]
    exact State.runSteps_atStep_last rfl (by rw [hrtn]; decide)
  · exact State.runSteps_indexed_of_le h

/-- Settles O40: the store form's write, and the reads after it; or the write is stopped, with ACC
already in MDR. -/
theorem stoStoresTheAccumulator : Obligations.StoStoresTheAccumulator := by
  intro s a i hi
  obtain ⟨hrtn, rfl⟩ : i.entry.rtn = rtnSto ∧ i.operand = a :=
    Instr.rtn_operand_of_mem_forms hi ⟨rfl, rfl⟩ ⟨rfl, rfl⟩
  constructor
  · intro h
    refine ⟨s.mem.write i.operand.toNat s.acc, exec_of_execute ?_,
      fun hwf => Memory.read_write_self hwf _ _, fun b hb => Memory.read_write_of_ne hb _ _⟩
    rw [State.execute_eq_runSteps hrtn, rtnSto, State.runSteps_store]
    exact State.runSteps_atStep_last (State.writeMar_of_lt h) (by rw [hrtn]; decide)
  · intro h
    apply exec_of_execute
    rw [State.execute_eq_runSteps hrtn, rtnSto, State.runSteps_store]
    exact State.runSteps_atStep_raises (State.writeMar_of_le h)

end Sys2Proof.Machine
end

section
/-! The arithmetic instructions as whole next states: one rule per operand form of an ALU
instruction, for every operation, and one per count up or down of a register (40_control_unit.md
R112, R119, 42_arithmetic.md R170 to R177). -/

namespace Sys2Proof.Machine

/-! ### ALU instructions -/

section
variable {s : State} {i : Instr} {op : AluOp}

/-- The ALU step neither reads nor writes what EXECUTE keeps of its instruction (R112). -/
theorem State.aluStep_atStep (s : State) (i : Instr) (k : Nat) (op : AluOp) (b : Word) :
    (s.atStep i k).aluStep op b = (s.aluStep op b).atStep i k := by
  cases op <;> rfl

/-- An ALU instruction with an immediate operand is the ALU step on OPERAND (R112). -/
theorem State.execute_aluImm (hi : i.entry.rtn = [.alu op .operand]) :
    s.execute i = (s.aluStep op i.operand).finished i :=
  State.execute_single hi (congrArg RtnResult.done (s.aluStep_atStep i 0 op i.operand)) (by simp)

/-- An ALU instruction with a direct operand inside memory is the ALU step on the word there (R111,
R112). -/
theorem State.execute_aluDir_of_lt (hi : i.entry.rtn = directSteps ++ [.alu op .mdr])
    (h : i.operand.toNat < s.memSize) :
    s.execute i = ((s.withDirect i.operand).aluStep op (s.word i.operand)).finished i := by
  have halu : RtnStep.run (.alu op .mdr) ((s.withDirect i.operand).atStep i 2) =
      .done (((s.withDirect i.operand).aluStep op (s.word i.operand)).atStep i 2) :=
    congrArg RtnResult.done (State.aluStep_atStep _ i 2 op _)
  rw [State.execute_eq_runSteps hi, State.runSteps_direct_of_lt h]
  exact State.runSteps_atStep_last halu (by simp [hi, directSteps])

/-- An instruction whose direct operand lies outside memory stops with MAR alone changed, whatever
its further steps (R111, R301). -/
theorem State.execute_direct_of_le {rs : List RtnStep} (hi : i.entry.rtn = directSteps ++ rs)
    (h : s.memSize ≤ i.operand.toNat) :
    s.execute i = State.outOfBounds { s with mar := i.operand } i i.operand := by
  rw [State.execute_eq_runSteps hi, State.runSteps_direct_of_le h]

/-- The immediate forms of an ALU instruction, short and long. -/
theorem exec_aluImm_of_mem_forms {short long : Instr} {n : Word}
    (hshort : short.entry.rtn = [.alu op .operand] ∧ short.operand = n)
    (hlong : long.entry.rtn = [.alu op .operand] ∧ long.operand = n) :
    ∀ i ∈ [short, long], exec i s = .next ((s.aluStep op n).finished i) := by
  intro i hi
  obtain ⟨hrtn, rfl⟩ := Instr.rtn_operand_of_mem_forms hi hshort hlong
  exact exec_of_execute (State.execute_aluImm hrtn)

/-- The direct forms of an ALU instruction, short and long. -/
theorem exec_aluDir_of_mem_forms {short long : Instr} {n : Word}
    (hshort : short.entry.rtn = directSteps ++ [.alu op .mdr] ∧ short.operand = n)
    (hlong : long.entry.rtn = directSteps ++ [.alu op .mdr] ∧ long.operand = n) :
    ∀ i ∈ [short, long],
      (n.toNat < s.memSize →
        exec i s = .next (((s.withDirect n).aluStep op (s.word n)).finished i)) ∧
      (s.memSize ≤ n.toNat → exec i s = .next (State.outOfBounds { s with mar := n } i n)) := by
  intro i hi
  obtain ⟨hrtn, rfl⟩ := Instr.rtn_operand_of_mem_forms hi hshort hlong
  exact ⟨fun h => exec_of_execute (State.execute_aluDir_of_lt hrtn h),
    fun h => exec_of_execute (State.execute_direct_of_le hrtn h)⟩

end

/-! ### Counting a register -/

/-- Counting up on 16 bits is counting up modulo 65536 (R10, R119). -/
theorem wrap16_toNat_add_one (w : Word) : wrap16 ((w.toNat : Int) + 1) = w + 1 := by
  have h := toNat_wrap16 ((w.toNat : Int) + 1)
  bv_omega

/-- Counting down on 16 bits is counting down modulo 65536 (R10, R119). -/
theorem wrap16_toNat_sub_one (w : Word) : wrap16 ((w.toNat : Int) - 1) = w - 1 := by
  have h := toNat_wrap16 ((w.toNat : Int) - 1)
  bv_omega

section
variable {s : State} {i : Instr} {r : CountReg}

/-- INC of a register writes that register alone (R119). -/
theorem exec_regInc (hi : i.entry.rtn = [.regInc r]) :
    exec i s =
      .next ((s.setCountReg r (wrap16 (((s.countReg r).toNat : Int) + 1))).finished i) := by
  rw [wrap16_toNat_add_one]
  exact exec_of_execute (State.execute_single hi (by cases r <;> rfl) (by simp))

/-- DEC of a register writes that register alone (R119). -/
theorem exec_regDec (hi : i.entry.rtn = [.regDec r]) :
    exec i s =
      .next ((s.setCountReg r (wrap16 (((s.countReg r).toNat : Int) - 1))).finished i) := by
  rw [wrap16_toNat_sub_one]
  exact exec_of_execute (State.execute_single hi (by cases r <;> rfl) (by simp))

end

/-! ### The obligations -/

/-- Settles O41: the operand forms of an ALU instruction, for addition. -/
theorem addAddsTheOperand : Obligations.AddAddsTheOperand := by
  intro s n
  simp only [← State.aluStep_eq_withAlu _ _ (show AluOp.add ≠ .compare by decide)]
  exact ⟨exec_aluImm_of_mem_forms ⟨rfl, rfl⟩ ⟨rfl, rfl⟩,
    exec_aluDir_of_mem_forms ⟨rfl, rfl⟩ ⟨rfl, rfl⟩⟩

/-- Settles O42: the operand forms of an ALU instruction, for subtraction. -/
theorem subSubtractsTheOperand : Obligations.SubSubtractsTheOperand := by
  intro s n
  simp only [← State.aluStep_eq_withAlu _ _ (show AluOp.subtract ≠ .compare by decide)]
  exact ⟨exec_aluImm_of_mem_forms ⟨rfl, rfl⟩ ⟨rfl, rfl⟩,
    exec_aluDir_of_mem_forms ⟨rfl, rfl⟩ ⟨rfl, rfl⟩⟩

/-- Settles O43: a count of ACC or of IX, up and down. -/
theorem incAndDecCountModulo : Obligations.IncAndDecCountModulo := fun _ _ =>
  ⟨exec_regInc (r := .acc) rfl, exec_regInc (r := .ix) rfl, exec_regDec (r := .acc) rfl,
    exec_regDec (r := .ix) rfl⟩

end Sys2Proof.Machine
end

section
/-! The compare and branch instructions as whole next states: the indirect operand form of an ALU
instruction, for every operation, and one rule for a conditional transfer to PC (40_control_unit.md
R109 to R112, 43_compare_branch.md R190 to R195). -/

namespace Sys2Proof.Machine

section
variable {s : State} {i : Instr}

/-! ### The indirect operand form -/

/-- An ALU instruction with an indirect operand, both addresses inside memory, is the ALU step on
the word that the pointer leads to (R111, R112). -/
theorem State.execute_aluInd_of_lt {op : AluOp}
    (hi : i.entry.rtn = indirectSteps ++ [.alu op .mdr]) (h : i.operand.toNat < s.memSize)
    (hp : (s.word i.operand).toNat < s.memSize) :
    s.execute i =
      ((s.withDirect (s.word i.operand)).aluStep op (s.word (s.word i.operand))).finished i := by
  have halu : RtnStep.run (.alu op .mdr) ((s.withDirect (s.word i.operand)).atStep i 4) =
      .done (((s.withDirect (s.word i.operand)).aluStep op
        (s.word (s.word i.operand))).atStep i 4) :=
    congrArg RtnResult.done (State.aluStep_atStep _ i 4 op _)
  rw [State.execute_eq_runSteps hi, State.runSteps_indirect_of_lt h hp]
  exact State.runSteps_atStep_last halu (by simp [hi, indirectSteps])

/-- An instruction whose pointer word lies outside memory stops before the second read, whatever its
further steps (R111, R301). -/
theorem State.execute_indirect_of_pointer_le {rs : List RtnStep}
    (hi : i.entry.rtn = indirectSteps ++ rs) (h : i.operand.toNat < s.memSize)
    (hp : s.memSize ≤ (s.word i.operand).toNat) :
    s.execute i =
      State.outOfBounds { s with mar := s.word i.operand, mdr := s.word i.operand } i
        (s.word i.operand) := by
  rw [State.execute_eq_runSteps hi, State.runSteps_indirect_of_pointer_le h hp]

/-! ### Transfers to PC -/

/-- A conditional transfer writes OPERAND to PC if FLAG.E is as wanted, and nothing else in either
case (R109). -/
theorem State.run_condTransfer_atStep (s : State) (i : Instr) (k : Nat) (want : Bool) :
    RtnStep.run (.condTransfer want) (s.atStep i k) =
      .done (State.atStep { s with pc := if s.flagE = want then i.operand else s.pc } i k) := by
  change RtnResult.done (if s.flagE = want then _ else _) = _
  by_cases hE : s.flagE = want
  · rw [if_pos hE, if_pos hE]
    rfl
  · rw [if_neg hE, if_neg hE]

/-- The forms of a conditional jump, short and long. -/
theorem exec_condTransfer_of_mem_forms {want : Bool} {short long : Instr} {a : Word}
    (hshort : short.entry.rtn = [.condTransfer want] ∧ short.operand = a)
    (hlong : long.entry.rtn = [.condTransfer want] ∧ long.operand = a) :
    ∀ i ∈ [short, long], exec i s =
      .next (State.finished { s with pc := if s.flagE = want then a else s.pc } i) := by
  intro i hi
  obtain ⟨hrtn, rfl⟩ := Instr.rtn_operand_of_mem_forms hi hshort hlong
  exact exec_of_execute (State.execute_single hrtn (s.run_condTransfer_atStep i 0 want) (by simp))

end

/-! ### The obligations -/

/-- Settles O44: the operand forms of an ALU instruction, for compare. -/
theorem cmpComparesTheOperand : Obligations.CmpComparesTheOperand := by
  intro s n
  simp only [← State.aluStep_compare]
  exact ⟨exec_aluImm_of_mem_forms ⟨rfl, rfl⟩ ⟨rfl, rfl⟩,
    exec_aluDir_of_mem_forms ⟨rfl, rfl⟩ ⟨rfl, rfl⟩⟩

/-- Settles O45: the indirect form and the compare; or the first or the second read stops it. -/
theorem cmiComparesThroughThePointer : Obligations.CmiComparesThroughThePointer := by
  intro s a i hi
  obtain ⟨hrtn, rfl⟩ : i.entry.rtn = indirectSteps ++ [.alu .compare .mdr] ∧ i.operand = a :=
    Instr.rtn_operand_of_mem_forms hi ⟨rfl, rfl⟩ ⟨rfl, rfl⟩
  simp only [← State.aluStep_compare]
  exact ⟨fun h hp => exec_of_execute (State.execute_aluInd_of_lt hrtn h hp),
    fun h => exec_of_execute
      (State.execute_direct_of_le (hrtn.trans (indirectSteps_append _)) h),
    fun h hp => exec_of_execute (State.execute_indirect_of_pointer_le hrtn h hp)⟩

/-- Settles O46: one transfer of OPERAND to PC, unconditional or on FLAG.E. JPN's condition is E = 0,
where the obligation chooses on E = 1. -/
theorem jumpsWriteThePc : Obligations.JumpsWriteThePc := by
  intro s a
  have hjpn : (if s.flag.getLsbD 0 = true then s.pc else a) =
      if s.flagE = false then a else s.pc := by
    rw [State.flagE]
    cases s.flag.getLsbD 0 <;> rfl
  rw [hjpn]
  refine ⟨fun i hi => ?_, exec_condTransfer_of_mem_forms ⟨rfl, rfl⟩ ⟨rfl, rfl⟩,
    exec_condTransfer_of_mem_forms ⟨rfl, rfl⟩ ⟨rfl, rfl⟩⟩
  obtain ⟨hrtn, rfl⟩ : i.entry.rtn = rtnJmp ∧ i.operand = a :=
    Instr.rtn_operand_of_mem_forms hi ⟨rfl, rfl⟩ ⟨rfl, rfl⟩
  exact exec_of_execute (State.execute_single hrtn rfl (by decide))

end Sys2Proof.Machine
end

section
/-! The logic and shift instructions as whole next states: the operand forms of an ALU instruction,
for the operations whose whole effect is the latch and ACC (40_control_unit.md R111, R112,
44_logic_shift.md R210 to R217). -/

namespace Sys2Proof.Machine

section
variable {s : State} {op : AluOp} {short long : Instr} {n : Word}

/-- The immediate forms of an ALU instruction other than a compare write the latch and ACC (R112). -/
theorem exec_withAluImm_of_mem_forms (hop : op ≠ .compare)
    (hshort : short.entry.rtn = [.alu op .operand] ∧ short.operand = n)
    (hlong : long.entry.rtn = [.alu op .operand] ∧ long.operand = n) :
    ∀ i ∈ [short, long], exec i s = .next ((s.withAlu op n).finished i) := by
  rw [← State.aluStep_eq_withAlu _ _ hop]
  exact exec_aluImm_of_mem_forms hshort hlong

/-- The direct forms of an ALU instruction other than a compare: inside memory they write the latch
and ACC, outside they stop with MAR alone changed (R111, R112, R301). -/
theorem exec_withAluDir_of_mem_forms (hop : op ≠ .compare)
    (hshort : short.entry.rtn = directSteps ++ [.alu op .mdr] ∧ short.operand = n)
    (hlong : long.entry.rtn = directSteps ++ [.alu op .mdr] ∧ long.operand = n) :
    (n.toNat < s.memSize → ∀ i ∈ [short, long],
      exec i s = .next (((s.withDirect n).withAlu op (s.word n)).finished i)) ∧
    (s.memSize ≤ n.toNat → ∀ i ∈ [short, long],
      exec i s = .next (State.outOfBounds { s with mar := n } i n)) := by
  rw [← State.aluStep_eq_withAlu _ _ hop]
  have hforms := exec_aluDir_of_mem_forms (s := s) hshort hlong
  exact ⟨fun h i hi => (hforms i hi).1 h, fun h i hi => (hforms i hi).2 h⟩

end

/-! ### The obligations -/

/-- Settles O47: the immediate forms of an ALU instruction, for AND, OR and XOR. -/
theorem logicImmediatesUseTheAlu : Obligations.LogicImmediatesUseTheAlu := fun _ _ =>
  ⟨exec_withAluImm_of_mem_forms (by decide) ⟨rfl, rfl⟩ ⟨rfl, rfl⟩,
    exec_withAluImm_of_mem_forms (by decide) ⟨rfl, rfl⟩ ⟨rfl, rfl⟩,
    exec_withAluImm_of_mem_forms (by decide) ⟨rfl, rfl⟩ ⟨rfl, rfl⟩⟩

/-- Settles O48: the direct forms of an ALU instruction, for AND, OR and XOR. The obligation lists
the six forms together where they raise. -/
theorem logicDirectsUseTheAlu : Obligations.LogicDirectsUseTheAlu := by
  intro s a
  obtain ⟨handIn, handOut⟩ := exec_withAluDir_of_mem_forms (s := s) (op := .and)
    (short := .andDirS a) (long := .andDirL a) (by decide) ⟨rfl, rfl⟩ ⟨rfl, rfl⟩
  obtain ⟨horIn, horOut⟩ := exec_withAluDir_of_mem_forms (s := s) (op := .or)
    (short := .orDirS a) (long := .orDirL a) (by decide) ⟨rfl, rfl⟩ ⟨rfl, rfl⟩
  obtain ⟨hxorIn, hxorOut⟩ := exec_withAluDir_of_mem_forms (s := s) (op := .xor)
    (short := .xorDirS a) (long := .xorDirL a) (by decide) ⟨rfl, rfl⟩ ⟨rfl, rfl⟩
  refine ⟨fun h => ⟨handIn h, horIn h, hxorIn h⟩, fun h => ?_⟩
  exact (List.forall_mem_append (l₁ := [_, _])).mpr ⟨handOut h,
    (List.forall_mem_append (l₁ := [_, _])).mpr ⟨horOut h, hxorOut h⟩⟩

/-- Settles O49: the immediate forms of an ALU instruction, for the two shifts. -/
theorem shiftsUseTheAlu : Obligations.ShiftsUseTheAlu := fun _ _ =>
  ⟨exec_withAluImm_of_mem_forms (by decide) ⟨rfl, rfl⟩ ⟨rfl, rfl⟩,
    exec_withAluImm_of_mem_forms (by decide) ⟨rfl, rfl⟩ ⟨rfl, rfl⟩⟩

end Sys2Proof.Machine
end

section
/-! The input, output and system instructions as whole next states: IN with a value and blocked, OUT,
and END (45_io_system.md R230 to R233, 60_exceptions.md R312). -/

namespace Sys2Proof.Machine

/-! ### The input queue -/

theorem State.popInput_of_nil {s : State} (h : s.inq = []) : s.popInput = .blocked := by
  rw [State.popInput, h]

theorem State.popInput_of_cons {s : State} {v : Int} {q : List Int} (h : s.inq = v :: q) :
    s.popInput = .done { s with acc := wrap16 v, inq := q } := by
  rw [State.popInput, h]

/-! ### Sequences that do not go back to FETCH -/

section
variable {s : State} {i : Instr} {r : RtnStep} {rs : List RtnStep}

/-- An instruction blocked at its first step stands where DECODE left it (R108, R230). -/
theorem State.execute_of_blocked (hi : i.entry.rtn = r :: rs)
    (h : r.run (s.latch i) = .blocked) : s.execute i = s.latch i := by
  rw [State.execute, hi, State.runSteps_blocked h]

/-- END leaves EXECUTE for HALT where another instruction goes on to FETCH (R108). -/
theorem State.leaveExecute_of_stop {e : CatalogEntry} (hstop : e.mnemonic = .stop) :
    s.leaveExecute e = { s with phase := .halt, k := 0 } := by
  rw [State.leaveExecute, if_pos hstop]

/-- END's one step transfers nothing: the machine goes from the end of DECODE to HALT (R233). -/
theorem State.execute_halt (hstop : i.entry.mnemonic = .stop) (hi : i.entry.rtn = [.halt]) :
    s.execute i = { s.latch i with phase := .halt, k := 0 } := by
  rw [State.execute, hi, State.runSteps_done (r := .halt) rfl]
  exact State.leaveExecute_of_stop hstop

end

/-! ### The obligations -/

/-- Settles O50: IN's one step takes the head of the queue, or blocks where there is none. -/
theorem inTakesTheHeadOfTheQueue : Obligations.InTakesTheHeadOfTheQueue := by
  refine ⟨fun s n v q hq => ?value, fun s n hq => ?blocked, toNat_wrap16⟩
  case value =>
    have hpop : (s.atStep (.input n) 0).popInput =
        .done (State.atStep { s with acc := wrap16 v, inq := q } (.input n) 0) :=
      State.popInput_of_cons hq
    exact exec_of_execute (State.execute_single (r := .inPop) rfl hpop (by decide))
  case blocked =>
    have hpop : (s.latch (.input n)).popInput = .blocked := State.popInput_of_nil hq
    exact exec_of_execute (State.execute_of_blocked (r := .inPop) rfl hpop)

/-- Settles O51: one append of ACC to OUTQ. -/
theorem outAppendsTheAccumulator : Obligations.OutAppendsTheAccumulator := fun _ _ =>
  exec_of_execute (State.execute_single (r := .outPush) rfl rfl (by decide))

/-- Settles O52: END goes to HALT and leaves ERR as it stood. -/
theorem endHaltsTheMachine : Obligations.EndHaltsTheMachine := by
  intro s n
  have hend : s.execute (.stop n) = { s.latch (.stop n) with phase := .halt, k := 0 } :=
    State.execute_halt rfl rfl
  refine ⟨exec_of_execute hend, fun herr t ht => ?_⟩
  obtain rfl := hend.symm.trans (execute_of_exec ht)
  exact decide_eq_true ⟨rfl, herr⟩

end Sys2Proof.Machine
end

section
/-! What one step of the assembler can do, said once: the symbol table, the equations of the passes,
and the step as a relation (50_assembler.md R250 to R263, R266). -/

namespace Sys2Proof.Machine

/-! ### Writing several words -/

/-- Canonical memory reads the words written where they were put, and every other address as before
(R54, R59, R262). -/
theorem Memory.read_writeList {m : Memory} (hm : m.wf = true) (a : Nat) (ws : List Word) (b : Nat) :
    (m.writeList a ws).read b =
      if a ≤ b ∧ b < a + ws.length then ws.getD (b - a) 0 else m.read b := by
  induction ws generalizing m a with
  | nil => rw [Memory.writeList, if_neg (by simp)]
  | cons w ws ih =>
    rw [Memory.writeList, ih (Memory.write_wf a w hm) (a + 1), readAfterWrite m a b w hm,
      List.length_cons]
    rcases Nat.lt_trichotomy b a with hlt | rfl | hlt
    · rw [if_neg (by omega), if_neg (by omega), if_neg (by omega)]
    · rw [if_neg (by omega), if_pos rfl, if_pos (by omega), Nat.sub_self, List.getD_cons_zero]
    · have hsub : b - a = b - (a + 1) + 1 := by omega
      rw [if_neg (by omega : b ≠ a), hsub, List.getD_cons_succ]
      exact if_congr (by omega) rfl rfl

/-! ### The symbol table -/

theorem symbolOf_eq_none_iff {symbols : List (List Char × SymVal)} {l : List Char} :
    symbolOf symbols l = none ↔ ∀ r ∈ symbols, r.1 ≠ l := by
  simp [symbolOf]

/-- In a table of unique labels a label stands for the value it is listed with (R254). -/
theorem symbolOf_eq_some_of_mem {symbols : List (List Char × SymVal)} {l : List Char} {v : SymVal}
    (hunique : (symbols.map (fun r => r.1)).Nodup) (hmem : (l, v) ∈ symbols) :
    symbolOf symbols l = some v := by
  cases hfind : symbolOf symbols l with
  | none => exact absurd rfl (symbolOf_eq_none_iff.mp hfind _ hmem)
  | some w =>
    obtain ⟨r, hr, rfl⟩ := Option.map_eq_some_iff.mp hfind
    have hkey : r.1 = l := eq_of_beq <|
      List.find?_some (p := fun r : List Char × SymVal => r.1 == l) hr
    rw [List.inj_on_of_nodup_map hunique (List.mem_of_find?_eq_some hr) hmem hkey]

theorem AsmState.duplicate_eq_none_iff {a : AsmState} {label : Option (List Char)} :
    a.duplicate label = none ↔ ∀ l, label = some l → ∀ r ∈ a.symbols, r.1 ≠ l := by
  cases label with
  | none => simp [AsmState.duplicate]
  | some l => simp [AsmState.duplicate, symbolOf_eq_none_iff]

theorem AsmState.duplicate_of_mem {a : AsmState} {l : List Char}
    (h : ∃ r ∈ a.symbols, r.1 = l) :
    a.duplicate (some l) = some l := by
  obtain ⟨r, hr, hl⟩ := h
  have hsome : symbolOf a.symbols l ≠ none := fun hnone => symbolOf_eq_none_iff.mp hnone r hr hl
  exact if_pos (Option.isSome_iff_ne_none.mpr hsome)

/-! ### The equations of a step -/

section
variable {a : AsmState} {size : Nat} {m : Memory} {n : Nat} {text : List Char}

theorem AsmState.step_trim (hphase : a.phase = .trim) (herr : a.err = none) :
    a.step size m = (a.trimStep, m) := by
  simp [AsmState.step, herr, hphase]

theorem AsmState.step_pass1 (hphase : a.phase = .pass1) (herr : a.err = none) :
    a.step size m = (a.pass1Step, m) := by
  simp [AsmState.step, herr, hphase]

theorem AsmState.step_pass2 (hphase : a.phase = .pass2) (herr : a.err = none) :
    a.step size m = a.pass2Step size m := by
  simp [AsmState.step, herr, hphase]

theorem AsmState.pass1Step_end (h : a.trimmed[a.cursor]? = none) : a.pass1Step = a.fixData := by
  rw [AsmState.pass1Step, h]

theorem AsmState.pass1Step_error {kind : AsmErrorKind}
    (h : a.trimmed[a.cursor]? = some (n, text)) (hparse : parseLine text = .error kind) :
    a.pass1Step = a.fail kind n (.text (Config.parseErrorDetail n text)) := by
  simp [AsmState.pass1Step, h, hparse]

theorem AsmState.pass1Step_duplicate {p : ParsedLine} {l : List Char}
    (h : a.trimmed[a.cursor]? = some (n, text)) (hparse : parseLine text = .ok p)
    (hdup : a.duplicate p.label = some l) :
    a.pass1Step = a.fail .duplicateLabel n (.text l) := by
  simp [AsmState.pass1Step, h, hparse, hdup]

theorem AsmState.pass1Step_scan {p : ParsedLine}
    (h : a.trimmed[a.cursor]? = some (n, text)) (hparse : parseLine text = .ok p)
    (hdup : a.duplicate p.label = none) : a.pass1Step = a.scan p := by
  simp [AsmState.pass1Step, h, hparse, hdup]

theorem AsmState.pass2Step_end (h : a.trimmed[a.cursor]? = none ∨ a.info[a.cursor]? = none) :
    a.pass2Step size m = (a.enter .done, m) := by
  rcases h with h | h
  · simp [AsmState.pass2Step, h]
  · simp [AsmState.pass2Step, h]

theorem AsmState.pass2Step_data {addr : Nat} {v : Word}
    (h : a.trimmed[a.cursor]? = some (n, text)) (hinfo : a.info[a.cursor]? = some (.data addr v)) :
    a.pass2Step size m = a.emit size m n addr [v] := by
  simp [AsmState.pass2Step, h, hinfo]

section
variable {addr len : Nat} {e : CatalogEntry} (h : a.trimmed[a.cursor]? = some (n, text))
  (hinfo : a.info[a.cursor]? = some (.instr addr len e))
include h hinfo

theorem AsmState.pass2Step_instr {value : Nat}
    (hvalue : resolveOperand a.symbols len (operandOfText text) = .ok value) :
    a.pass2Step size m = a.emit size m n addr (lineWords e len value) := by
  simp [AsmState.pass2Step, h, hinfo, hvalue]

theorem AsmState.pass2Step_unresolved {kind : AsmErrorKind} {t : List Char}
    (hvalue : resolveOperand a.symbols len (operandOfText text) = .error (kind, t)) :
    a.pass2Step size m = (a.fail kind n (.text t), m) := by
  simp [AsmState.pass2Step, h, hinfo, hvalue]

end

/-- Words that fit below MEM_SIZE are written (R262). -/
theorem AsmState.emit_of_lt {addr : Nat} {ws : List Word} (h : addr + ws.length - 1 < size) :
    a.emit size m n addr ws = ({ a with cursor := a.cursor + 1 }, m.writeList addr ws) :=
  if_neg (by omega)

/-- Words that do not fit below MEM_SIZE are not written (R262). -/
theorem AsmState.emit_of_le {addr : Nat} {ws : List Word} (h : size ≤ addr + ws.length - 1) :
    a.emit size m n addr ws = (a.fail .addressOutOfBounds n (.address addr), m) :=
  if_pos h

end

/-! ### The step as a relation -/

/-- TRIM of one line that the source still has (R252). -/
def AsmState.trimTo (a : AsmState) (t : List Char) : AsmState :=
  { a with
    trimmed := if (trimLine t).isEmpty then a.trimmed else a.trimmed ++ [(a.cursor + 1, trimLine t)]
    cursor := a.cursor + 1 }

/-- What a step of the assembler can do: the assembler after it, and the words that it writes at an
address. `AsmState.step_stepsBy` ties it to the step. -/
inductive AsmState.StepTo (a : AsmState) : AsmState → Nat → List Word → Prop
  | stopped : a.err ≠ none ∨ a.phase = .done → a.StepTo a 0 []
  | trimTo {t : List Char} : a.err = none → a.phase = .trim → a.raw[a.cursor]? = some t →
      a.StepTo (a.trimTo t) 0 []
  | endTrim : a.err = none → a.phase = .trim → a.raw[a.cursor]? = none →
      a.StepTo (a.enter .pass1) 0 []
  | scan {n : Nat} {text : List Char} {p : ParsedLine} : a.err = none → a.phase = .pass1 →
      a.trimmed[a.cursor]? = some (n, text) → parseLine text = .ok p →
      a.duplicate p.label = none → a.StepTo (a.scan p) 0 []
  | endPass1 : a.err = none → a.phase = .pass1 → a.trimmed[a.cursor]? = none →
      a.StepTo a.fixData 0 []
  | fail {n : Nat} {text : List Char} (kind : AsmErrorKind) (d : AsmDetail) :
      a.trimmed[a.cursor]? = some (n, text) → a.StepTo (a.fail kind n d) 0 []
  | emit {line : Nat × List Char} (addr : Nat) (ws : List Word) : a.err = none →
      a.phase = .pass2 → a.trimmed[a.cursor]? = some line →
      a.StepTo { a with cursor := a.cursor + 1 } addr ws
  | endPass2 : a.err = none → a.phase = .pass2 →
      a.trimmed[a.cursor]? = none ∨ a.info[a.cursor]? = none → a.StepTo (a.enter .done) 0 []

/-- A step answers the same assembler and writes the same words whatever the memory holds, and does
one of the things that the relation lists. -/
def AsmState.StepsBy (a : AsmState) (f : Memory → AsmState × Memory) : Prop :=
  ∃ (b : AsmState) (addr : Nat) (ws : List Word), a.StepTo b addr ws ∧
    ∀ m : Memory, f m = (b, m.writeList addr ws)

section
variable {a : AsmState}

theorem AsmState.trimStep_stepTo (herr : a.err = none) (hphase : a.phase = .trim) :
    a.StepTo a.trimStep 0 [] := by
  cases h : a.raw[a.cursor]? with
  | none => rw [AsmState.trimStep, h]; exact .endTrim herr hphase h
  | some t => rw [AsmState.trimStep, h]; exact .trimTo herr hphase h

theorem AsmState.pass1Step_stepTo (herr : a.err = none) (hphase : a.phase = .pass1) :
    a.StepTo a.pass1Step 0 [] := by
  cases h : a.trimmed[a.cursor]? with
  | none => rw [AsmState.pass1Step_end h]; exact .endPass1 herr hphase h
  | some line =>
    cases hparse : parseLine line.2 with
    | error kind => rw [AsmState.pass1Step_error h hparse]; exact .fail _ _ h
    | ok p =>
      cases hdup : a.duplicate p.label with
      | some l => rw [AsmState.pass1Step_duplicate h hparse hdup]; exact .fail _ _ h
      | none =>
        rw [AsmState.pass1Step_scan h hparse hdup]
        exact .scan herr hphase h hparse hdup

/-- An emission fails or writes, whatever the memory holds. -/
theorem AsmState.emit_stepsBy {line : Nat × List Char} (size addr : Nat) (ws : List Word)
    (herr : a.err = none) (hphase : a.phase = .pass2) (h : a.trimmed[a.cursor]? = some line) :
    a.StepsBy fun m => a.emit size m line.1 addr ws := by
  by_cases hfit : addr + ws.length - 1 < size
  · exact ⟨_, addr, ws, .emit addr ws herr hphase h, fun m => AsmState.emit_of_lt hfit⟩
  · exact ⟨_, 0, [], .fail _ _ h, fun m => AsmState.emit_of_le (by omega)⟩

theorem AsmState.pass2Step_stepsBy (size : Nat) (herr : a.err = none) (hphase : a.phase = .pass2) :
    a.StepsBy (a.pass2Step size) := by
  cases h : a.trimmed[a.cursor]? with
  | none =>
    exact ⟨_, 0, [], .endPass2 herr hphase (.inl h), fun m => AsmState.pass2Step_end (.inl h)⟩
  | some line =>
    have hemit := fun addr ws => AsmState.emit_stepsBy size addr ws herr hphase h
    cases hinfo : a.info[a.cursor]? with
    | none =>
      exact ⟨_, 0, [], .endPass2 herr hphase (.inr hinfo), fun m =>
        AsmState.pass2Step_end (.inr hinfo)⟩
    | some i =>
      cases i with
      | data addr v =>
        rw [show a.pass2Step size = fun m => a.emit size m line.1 addr [v] from
          funext fun m => AsmState.pass2Step_data h hinfo]
        exact hemit addr [v]
      | instr addr len e =>
        cases hvalue : resolveOperand a.symbols len (operandOfText line.2) with
        | error kt =>
          exact ⟨_, 0, [], .fail _ _ h, fun m => AsmState.pass2Step_unresolved h hinfo hvalue⟩
        | ok value =>
          rw [show a.pass2Step size =
              fun m => a.emit size m line.1 addr (lineWords e len value) from
            funext fun m => AsmState.pass2Step_instr h hinfo hvalue]
          exact hemit addr _

/-- Every step of the assembler is one of those that the relation lists, and what it does to the
assembler and writes does not depend on the memory (R251, R268). -/
theorem AsmState.step_stepsBy (a : AsmState) (size : Nat) : a.StepsBy (a.step size) := by
  by_cases herr : a.err = none
  · cases hphase : a.phase with
    | trim =>
      exact ⟨_, 0, [], a.trimStep_stepTo herr hphase, fun m => AsmState.step_trim hphase herr⟩
    | pass1 =>
      exact ⟨_, 0, [], a.pass1Step_stepTo herr hphase, fun m => AsmState.step_pass1 hphase herr⟩
    | pass2 =>
      rw [show a.step size = a.pass2Step size from
        funext fun m => AsmState.step_pass2 hphase herr]
      exact a.pass2Step_stepsBy size herr hphase
    | done =>
      exact ⟨_, 0, [], .stopped (.inr hphase), fun m => a.step_stopped size m (.inr hphase)⟩
  · exact ⟨_, 0, [], .stopped (.inl herr), fun m =>
      a.step_stopped size m (.inl (Option.isSome_iff_ne_none.mpr herr))⟩

/-- The assembler after a step is one that the relation lists. -/
theorem AsmState.step_stepTo (a : AsmState) (size : Nat) (m : Memory) :
    ∃ (addr : Nat) (ws : List Word), a.StepTo (a.step size m).1 addr ws ∧
      (a.step size m).2 = m.writeList addr ws := by
  obtain ⟨b, addr, ws, hto, hstep⟩ := a.step_stepsBy size
  exact ⟨addr, ws, by rw [hstep m]; exact hto, by rw [hstep m]⟩

end

end Sys2Proof.Machine
end

section
/-! The invariant of the assembler and that every step keeps it: what TRIM keeps, where PASS1 places
the lines, and what the symbols stand for (50_assembler.md R250 to R254, R260, R261, R267). -/

namespace Sys2Proof.Machine

/-! ### What TRIM keeps -/

/-- The lines of R269 are those that TRIM keeps, their numbers left out (R252). -/
theorem keptLines_eq_map (lines : List (List Char)) :
    keptLines lines = (keptNumbered lines).map (fun r => r.2) := by
  have hlines : lines.map trimLine =
      ((lines.zipIdx 1).map fun r => (r.2, trimLine r.1)).map (fun r => r.2) := by
    rw [List.map_map, ← List.zipIdx_map_fst 1 lines, List.map_map, List.zipIdx_map_fst]
    rfl
  rw [keptLines, hlines, List.filter_map]
  rfl

/-- TRIM of one more line keeps it with its number, if any of it is left (R252). -/
theorem keptNumbered_append (lines : List (List Char)) (t : List Char) :
    keptNumbered (lines ++ [t]) =
      if (trimLine t).isEmpty then keptNumbered lines
      else keptNumbered lines ++ [(lines.length + 1, trimLine t)] := by
  rw [keptNumbered, List.zipIdx_append, List.map_append, List.filter_append, ← keptNumbered,
    Nat.add_comm]
  split
  · next h => simp [h]
  · next h => simp [h]

/-! ### Where PASS1 places a line -/

theorem codeEnd_append (lines : List (Nat × List Char)) (line : Nat × List Char) :
    codeEnd (lines ++ [line]) = codeEnd lines + codeWords line := by
  simp [codeEnd, Nat.add_assoc]

theorem dataCount_append (lines : List (Nat × List Char)) (line : Nat × List Char) :
    dataCount (lines ++ [line]) = dataCount lines + dataWords line := by
  simp [dataCount]

/-- PASS1 of a line, with the counters after the lines before it: the line's note is the place that
these lines give, its label gets that place, and the counters go past the line (R260). -/
theorem AsmState.scan_eq {a : AsmState} {before : List (Nat × List Char)} {line : Nat × List Char}
    {p : ParsedLine} (hcode : a.instAddr = codeEnd before) (hdata : a.dataIndex = dataCount before)
    (hparse : parseLine line.2 = .ok p) :
    a.scan p = { a with
      symbols := a.symbols ++ (lineSymbol false (line, p.placedAfter before 0)).toList
      info := a.info ++ [p.placedAfter before 0]
      instAddr := codeEnd (before ++ [line])
      dataIndex := dataCount (before ++ [line])
      cursor := a.cursor + 1 } := by
  cases p with
  | instr label e o =>
    cases label <;>
      simp [AsmState.scan, AsmState.define, lineSymbol, codeEnd_append, dataCount_append, codeWords,
        dataWords, hparse, hcode, hdata, ParsedLine.placedAfter, ParsedLine.label,
        LineInfo.labelValue]
  | data label v =>
    simp [AsmState.scan, AsmState.define, lineSymbol, codeEnd_append, dataCount_append, codeWords,
      dataWords, hparse, hcode, hdata, ParsedLine.placedAfter, ParsedLine.label,
      LineInfo.labelValue]

/-- The symbol of a line that parses has the line's label (R260). -/
theorem fst_of_mem_lineSymbol {placed : Bool} {line : Nat × List Char} {i : LineInfo}
    {p : ParsedLine} (hparse : parseLine line.2 = .ok p) {r : List Char × SymVal}
    (hr : r ∈ lineSymbol placed (line, i)) : p.label = some r.1 := by
  simp only [lineSymbol, hparse, Option.mem_def, Option.map_eq_some_iff] at hr
  obtain ⟨l, hl, rfl⟩ := hr
  exact hl

/-- At the end of PASS1 a place counted among the data becomes one after all the code (R261). -/
theorem LineInfo.resolve_placedAfter (p : ParsedLine) (before : List (Nat × List Char))
    (dataBase : Nat) :
    (p.placedAfter before 0).resolve dataBase = p.placedAfter before dataBase := by
  cases p with
  | instr label e o => rfl
  | data label v => simp [ParsedLine.placedAfter, LineInfo.resolve]

/-- At the end of PASS1 a line's symbol becomes the address of the line's place (R261). -/
theorem lineSymbol_resolve (dataBase : Nat) (line : Nat × List Char) (i : LineInfo) :
    lineSymbol true (line, i.resolve dataBase) =
      (lineSymbol false (line, i)).map (fun r => (r.1, r.2.resolve dataBase)) := by
  have hvalue : (i.resolve dataBase).labelValue true =
      (i.labelValue false).resolve dataBase := by
    cases i <;> rfl
  simp only [lineSymbol]
  split
  · simp [hvalue, Function.comp_def]
  · rfl

/-! ### The layout -/

/-- A list zipped with one more note takes in the item at the note's place. -/
theorem zip_append_singleton {α β : Type} {xs : List α} {ys : List β} {x : α} {y : β}
    (h : xs[ys.length]? = some x) : xs.zip (ys ++ [y]) = xs.zip ys ++ [(x, y)] := by
  induction ys generalizing xs with
  | nil =>
    cases xs with
    | nil => simp at h
    | cons z xs => simpa using h
  | cons w ys ih =>
    cases xs with
    | nil => simp at h
    | cons z xs => simpa using ih (by simpa using h)

theorem take_add_one_of_getElem? {α : Type} {xs : List α} {n : Nat} {x : α}
    (h : xs[n]? = some x) : xs.take (n + 1) = xs.take n ++ [x] := by
  rw [List.take_add_one, h]
  rfl

theorem filterMap_singleton {α β : Type} (f : α → Option β) (x : α) :
    [x].filterMap f = (f x).toList := by
  cases h : f x <;> simp [h]

section
variable {a b : AsmState}

/-- The layout speaks of the lines, the notes, the counters, the symbols and whether PASS1 has ended
alone. -/
theorem AsmState.Layout.congr (h : a.Layout) (htrimmed : b.trimmed = a.trimmed)
    (hinfo : b.info = a.info) (hsymbols : b.symbols = a.symbols) (hcode : b.instAddr = a.instAddr)
    (hdata : b.dataIndex = a.dataIndex) (hplaced : b.placed ↔ a.placed) : b.Layout where
  notes := by
    rw [htrimmed, hinfo, hplaced]
    exact h.notes
  codeCounter := by rw [hcode, htrimmed, hinfo, h.codeCounter]
  dataCounter := by rw [hdata, htrimmed, hinfo, h.dataCounter]
  labels := by
    rw [hsymbols, htrimmed, hinfo, hplaced]
    exact h.labels

/-- With no line noted, the layout says that there are no symbols and the counters stand at their
origins (R250). -/
theorem AsmState.layout_of_info_nil (hinfo : a.info = []) (hsymbols : a.symbols = [])
    (hcode : a.instAddr = codeEnd []) (hdata : a.dataIndex = dataCount []) : a.Layout where
  notes := by simp [hinfo]
  codeCounter := by simp [hinfo, hcode]
  dataCounter := by simp [hinfo, hdata]
  labels := by simp [hinfo, hsymbols]

theorem AsmState.not_placed_of_pass1 (hphase : a.phase = .pass1) : ¬ a.placed := by
  simp [AsmState.placed, hphase]

/-- A PASS1 step keeps the layout: the counters stand where the lines before this one end (R260). -/
theorem AsmState.Layout.scan (h : a.Layout) (hphase : a.phase = .pass1)
    {line : Nat × List Char} {p : ParsedLine} (hline : a.trimmed[a.info.length]? = some line)
    (hparse : parseLine line.2 = .ok p) : (a.scan p).Layout := by
  have hplaced := AsmState.not_placed_of_pass1 hphase
  have htake := take_add_one_of_getElem? hline
  rw [AsmState.scan_eq h.codeCounter h.dataCounter hparse]
  refine ⟨fun j n text i hj hi => ?notes, ?code, ?data, fun placed hp => ?labels⟩
  case code => simp [htake]
  case data => simp [htake]
  case notes =>
    rcases Nat.lt_trichotomy j a.info.length with hlt | rfl | hgt
    · exact h.notes j n text i hj (by simpa [List.getElem?_append, hlt] using hi)
    · obtain rfl : line = (n, text) := Option.some.inj (hline.symm.trans hj)
      obtain rfl : p.placedAfter (a.trimmed.take a.info.length) 0 = i := by simpa using hi
      exact ⟨p, hparse, fun hp => absurd hp hplaced, fun _ => rfl⟩
    · exact absurd (List.getElem?_eq_some_iff.mp hi).1 (by simp; omega)
  case labels =>
    obtain rfl : placed = false := by simpa using fun ht => hplaced (hp.mp ht)
    have hsymbols := h.labels false (by simpa using hplaced)
    simp only [zip_append_singleton hline, List.filterMap_append, ← hsymbols,
      filterMap_singleton]

/-- The end of PASS1 keeps the layout: all lines are noted, so the data region starts after all the
code (R261, R267). -/
theorem AsmState.Layout.fixData (h : a.Layout) (hphase : a.phase = .pass1)
    (hinfo : a.info.length = a.trimmed.length) : a.fixData.Layout := by
  have hbefore := AsmState.not_placed_of_pass1 hphase
  have hcode : a.instAddr = codeEnd a.trimmed := by rw [h.codeCounter, hinfo, List.take_length]
  refine ⟨fun j n text i hj hi => ?notes, ?code, ?data, fun placed hp => ?labels⟩
  case code => simpa [AsmState.fixData] using h.codeCounter
  case data => simpa [AsmState.fixData] using h.dataCounter
  case notes =>
    obtain ⟨i, hi₀, rfl⟩ : ∃ i', a.info[j]? = some i' ∧ i'.resolve a.instAddr = i := by
      simpa [AsmState.fixData] using hi
    obtain ⟨p, hparse, _, hplace⟩ := h.notes j n text i hj hi₀
    refine ⟨p, hparse, fun _ => ?_, fun hp => absurd (.inl rfl) hp⟩
    rw [hplace hbefore, LineInfo.resolve_placedAfter, hcode]
    rfl
  case labels =>
    obtain rfl : placed = true := hp.mpr (.inl rfl)
    simp only [AsmState.fixData, h.labels false (by simpa using hbefore), List.zip_map_right,
      List.filterMap_map, List.map_filterMap]
    exact List.filterMap_congr fun r _ => (lineSymbol_resolve _ r.1 r.2).symm

/-! ### The invariant -/

theorem AsmState.handled_of_trim (hphase : a.phase = .trim) : a.handled = a.raw.take a.cursor :=
  if_pos hphase

theorem AsmState.handled_of_ne_trim (hphase : a.phase ≠ .trim) : a.handled = a.raw :=
  if_neg hphase

theorem AsmState.inv_new (lines : List (List Char)) : (AsmState.new lines).Inv where
  labelsUnique := List.nodup_nil
  cursor := ⟨Nat.zero_le _, rfl, rfl⟩
  resolved := fun _ => rfl
  source := rfl
  layout := AsmState.layout_of_info_nil rfl rfl rfl rfl

namespace AsmState.Inv

theorem cursor_trim (h : a.Inv) (hphase : a.phase = .trim) :
    a.cursor ≤ a.raw.length ∧ a.symbols = [] ∧ a.info = [] := by
  simpa only [AsmState.cursorLegal, hphase] using h.cursor

theorem cursor_pass1 (h : a.Inv) (hphase : a.phase = .pass1) :
    a.cursor ≤ a.trimmed.length ∧ a.info.length = a.cursor := by
  simpa only [AsmState.cursorLegal, hphase] using h.cursor

theorem cursor_pass2 (h : a.Inv) (hphase : a.phase = .pass2) :
    a.cursor ≤ a.trimmed.length ∧ a.info.length = a.trimmed.length := by
  simpa only [AsmState.cursorLegal, hphase] using h.cursor

theorem source_of_ne_trim (h : a.Inv) (hphase : a.phase ≠ .trim) :
    a.trimmed = keptNumbered a.raw := by
  rw [← AsmState.handled_of_ne_trim hphase]
  exact h.source

/-- Before PASS1 both counters stand at their origins (R250). -/
theorem counters_trim (h : a.Inv) (hphase : a.phase = .trim) :
    a.instAddr = codeEnd [] ∧ a.dataIndex = dataCount [] := by
  obtain ⟨_, _, hinfo⟩ := h.cursor_trim hphase
  have hcode := h.layout.codeCounter
  have hdata := h.layout.dataCounter
  rw [hinfo] at hcode hdata
  exact ⟨hcode, hdata⟩

theorem fail (h : a.Inv) (kind : AsmErrorKind) (n : Nat) (d : AsmDetail) :
    (a.fail kind n d).Inv :=
  ⟨h.labelsUnique, h.cursor, h.resolved, h.source, h.layout.congr rfl rfl rfl rfl rfl .rfl⟩

theorem trimTo (h : a.Inv) (hphase : a.phase = .trim) {t : List Char}
    (hraw : a.raw[a.cursor]? = some t) : (a.trimTo t).Inv := by
  obtain ⟨_, hsymbols, hinfo⟩ := h.cursor_trim hphase
  obtain ⟨hcode, hdata⟩ := h.counters_trim hphase
  obtain ⟨hlt, _⟩ := List.getElem?_eq_some_iff.mp hraw
  refine ⟨h.labelsUnique, ?cursor, fun hp => ?resolved, ?source,
    AsmState.layout_of_info_nil hinfo hsymbols hcode hdata⟩
  case cursor =>
    simp only [AsmState.cursorLegal, AsmState.trimTo, hphase]
    exact ⟨hlt, hsymbols, hinfo⟩
  case resolved => exact h.resolved hp
  case source =>
    have hsource := h.source
    rw [AsmState.handled_of_trim hphase] at hsource
    rw [AsmState.handled_of_trim (a := a.trimTo t) hphase]
    simp only [AsmState.trimTo]
    rw [take_add_one_of_getElem? hraw, keptNumbered_append, ← hsource, List.length_take,
      Nat.min_eq_left hlt.le]

theorem endTrim (h : a.Inv) (hphase : a.phase = .trim) (hraw : a.raw[a.cursor]? = none) :
    (a.enter .pass1).Inv := by
  obtain ⟨_, hsymbols, hinfo⟩ := h.cursor_trim hphase
  obtain ⟨hcode, hdata⟩ := h.counters_trim hphase
  refine ⟨h.labelsUnique, ⟨Nat.zero_le _, by simp [AsmState.enter, hinfo]⟩,
    fun hp => ?resolved, ?source, AsmState.layout_of_info_nil hinfo hsymbols hcode hdata⟩
  case resolved => simp [AsmState.enter, hsymbols]
  case source =>
    rw [AsmState.handled_of_ne_trim (by simp [AsmState.enter])]
    have hsource := h.source
    rwa [AsmState.handled_of_trim hphase,
      List.take_of_length_le (List.getElem?_eq_none_iff.mp hraw)] at hsource

theorem scan (h : a.Inv) (hphase : a.phase = .pass1) {line : Nat × List Char} {p : ParsedLine}
    (hline : a.trimmed[a.cursor]? = some line) (hparse : parseLine line.2 = .ok p)
    (hnew : a.duplicate p.label = none) : (a.scan p).Inv := by
  obtain ⟨_, hcursor⟩ := h.cursor_pass1 hphase
  obtain ⟨hlt, _⟩ := List.getElem?_eq_some_iff.mp hline
  have hplaced := AsmState.not_placed_of_pass1 hphase
  have hlayout := h.layout.scan hphase (hcursor ▸ hline) hparse
  rw [AsmState.scan_eq h.layout.codeCounter h.layout.dataCounter hparse] at hlayout ⊢
  refine ⟨?unique, ?cursor, fun hp => absurd hp hplaced, ?source, hlayout⟩
  case unique =>
    rw [List.map_append]
    refine List.nodup_append'.mpr ⟨h.labelsUnique, ?_, ?_⟩
    · cases lineSymbol false _ <;> simp
    · intro l hold hlabel
      obtain ⟨r, hr, rfl⟩ := List.mem_map.mp hold
      obtain ⟨r', hr', hl⟩ := List.mem_map.mp hlabel
      have hp := fst_of_mem_lineSymbol hparse (Option.mem_toList.mp hr')
      exact AsmState.duplicate_eq_none_iff.mp hnew r'.1 hp r hr hl.symm
  case cursor =>
    simp only [AsmState.cursorLegal, hphase, List.length_append, List.length_singleton]
    omega
  case source =>
    rw [AsmState.handled_of_ne_trim (by simp [hphase])]
    exact h.source_of_ne_trim (by simp [hphase])

theorem fixData (h : a.Inv) (hphase : a.phase = .pass1) (hend : a.trimmed[a.cursor]? = none) :
    a.fixData.Inv := by
  obtain ⟨hle, hcursor⟩ := h.cursor_pass1 hphase
  have hinfo : a.info.length = a.trimmed.length := by
    rw [hcursor]
    exact le_antisymm hle (List.getElem?_eq_none_iff.mp hend)
  refine ⟨?unique, ⟨Nat.zero_le _, by simpa [AsmState.fixData] using hinfo⟩,
    fun _ => ?resolved, ?source, h.layout.fixData hphase hinfo⟩
  case unique => simpa [AsmState.fixData, Function.comp_def] using h.labelsUnique
  case resolved =>
    have hresolved : ∀ v : SymVal, (v.resolve a.instAddr).resolved = true := by
      intro v
      cases v <;> rfl
    simp [AsmState.fixData, hresolved]
  case source =>
    rw [AsmState.handled_of_ne_trim (by simp [AsmState.fixData])]
    exact h.source_of_ne_trim (by simp [hphase])

theorem advance (h : a.Inv) (hphase : a.phase = .pass2) {line : Nat × List Char}
    (hline : a.trimmed[a.cursor]? = some line) :
    AsmState.Inv { a with cursor := a.cursor + 1 } := by
  obtain ⟨_, hinfo⟩ := h.cursor_pass2 hphase
  obtain ⟨hlt, _⟩ := List.getElem?_eq_some_iff.mp hline
  refine ⟨h.labelsUnique, ?cursor, h.resolved, ?source, h.layout.congr rfl rfl rfl rfl rfl .rfl⟩
  case cursor =>
    simp only [AsmState.cursorLegal, hphase]
    exact ⟨hlt, hinfo⟩
  case source =>
    rw [AsmState.handled_of_ne_trim (by simp [hphase])]
    exact h.source_of_ne_trim (by simp [hphase])

theorem endPass2 (h : a.Inv) (hphase : a.phase = .pass2) : (a.enter .done).Inv := by
  obtain ⟨_, hinfo⟩ := h.cursor_pass2 hphase
  have hplaced : a.placed := .inl hphase
  refine ⟨h.labelsUnique, ⟨rfl, hinfo⟩, fun _ => h.resolved hplaced, ?source,
    h.layout.congr rfl rfl rfl rfl rfl ⟨fun _ => hplaced, fun _ => .inr rfl⟩⟩
  rw [AsmState.handled_of_ne_trim (by simp [AsmState.enter])]
  exact h.source_of_ne_trim (by simp [hphase])

/-- Every step keeps the invariant (R250 to R267). -/
theorem stepTo (h : a.Inv) {addr : Nat} {ws : List Word} (hto : a.StepTo b addr ws) : b.Inv := by
  cases hto with
  | stopped _ => exact h
  | trimTo _ hphase hraw => exact h.trimTo hphase hraw
  | endTrim _ hphase hraw => exact h.endTrim hphase hraw
  | scan _ hphase hline hparse hnew => exact h.scan hphase hline hparse hnew
  | endPass1 _ hphase hend => exact h.fixData hphase hend
  | fail kind d _ => exact h.fail kind _ d
  | emit _ _ _ hphase hline => exact h.advance hphase hline
  | endPass2 _ hphase _ => exact h.endPass2 hphase

end AsmState.Inv

/-- PASS1 of a line notes one more line and goes on, in the same phase and on the same
source (R260). -/
theorem AsmState.scan_fields (a : AsmState) (p : ParsedLine) :
    (a.scan p).phase = a.phase ∧ (a.scan p).err = a.err ∧ (a.scan p).raw = a.raw ∧
      (a.scan p).trimmed = a.trimmed ∧ (a.scan p).cursor = a.cursor + 1 ∧
      (a.scan p).info.length = a.info.length + 1 := by
  have hdefine : ∀ l v, (a.define l v).phase = a.phase ∧ (a.define l v).err = a.err ∧
      (a.define l v).raw = a.raw ∧ (a.define l v).trimmed = a.trimmed := by
    intro l v
    cases l <;> exact ⟨rfl, rfl, rfl, rfl⟩
  cases p <;> simp [AsmState.scan, hdefine]

/-- Settles O58: the invariant by the cases of a step, PASS1's answers by its equations. -/
theorem assemblerKeepsItsInvariant : Obligations.AssemblerKeepsItsInvariant := by
  refine ⟨AsmState.inv_new, fun a size m h => ?step, fun a size m hphase herr => ?pass1⟩
  case step =>
    obtain ⟨addr, ws, hto, _⟩ := a.step_stepTo size m
    exact h.stepTo hto
  case pass1 =>
    rw [AsmState.step_pass1 hphase herr]
    refine ⟨fun n text hline => ⟨fun p hparse => ⟨fun hnew => ?scan,
      fun l hl hold => ?duplicate⟩, fun kind hparse => ?error⟩, fun hend => ?last⟩
    case scan =>
      rw [AsmState.pass1Step_scan hline hparse (AsmState.duplicate_eq_none_iff.mpr hnew)]
      obtain ⟨hp, he, hrest⟩ := a.scan_fields p
      exact ⟨a.scan p, rfl, hp.trans hphase, he.trans herr, hrest⟩
    case duplicate =>
      have hdup : a.duplicate p.label = some l := by rw [hl]; exact AsmState.duplicate_of_mem hold
      rw [AsmState.pass1Step_duplicate hline hparse hdup]
      rfl
    case error =>
      rw [AsmState.pass1Step_error hline hparse]
      exact ⟨_, rfl⟩
    case last =>
      rw [AsmState.pass1Step_end hend]
      exact ⟨a.fixData, rfl, rfl, rfl, herr, rfl, rfl, List.length_map _⟩

end

end Sys2Proof.Machine
end

section
/-! Runs of the assembler: they leave the CPU, stop at an error, take the steps that the source's
lines ask for, and depend on the source alone (50_assembler.md R251, R264, R266, R268, R269). -/

namespace Sys2Proof.Machine

/-! ### Steps of the machine's assembler -/

section
variable {s : State} {a : AsmState}

theorem State.asmStep_of_some (h : s.asm = some a) :
    s.asmStep = { s with asm := some (a.step s.memSize s.mem).1
                         mem := (a.step s.memSize s.mem).2 } := by
  rw [State.asmStep, h]

theorem State.SameCpu.memSize {s t : State} (h : s.SameCpu t) : t.memSize = s.memSize := by
  unfold State.SameCpu at h
  rw [h]

theorem State.asmStep_inq (s : State) : s.asmStep.inq = s.inq := by
  unfold State.asmStep
  cases s.asm with
  | none => rfl
  | some a => rfl

/-- A run of the assembler leaves the CPU as it is (R264). -/
theorem State.asmRun_sameCpu (s : State) (n : Nat) : s.SameCpu (s.asmRun n) := by
  induction n generalizing s with
  | zero => exact .refl s
  | succ n ih => exact s.asmStep_sameCpu.trans (ih s.asmStep)

theorem State.asmRun_inq (s : State) (n : Nat) : (s.asmRun n).inq = s.inq := by
  induction n generalizing s with
  | zero => rfl
  | succ n ih => exact (ih s.asmStep).trans s.asmStep_inq

theorem State.asmRun_add (s : State) (m n : Nat) : s.asmRun (m + n) = (s.asmRun m).asmRun n := by
  induction m generalizing s with
  | zero => rw [Nat.zero_add]; rfl
  | succ m ih => rw [Nat.succ_add]; exact ih s.asmStep

/-- Once the assembler has failed, its steps do nothing (R251, R266). -/
theorem State.asmRun_failed (h : s.asm = some a) (herr : a.err ≠ none) (n : Nat) :
    s.asmRun n = s := by
  have hstep : s.asmStep = s := by
    rw [State.asmStep_of_some h,
      a.step_stopped _ _ (.inl (Option.isSome_iff_ne_none.mpr herr)), ← h]
  induction n with
  | zero => rfl
  | succ n ih => rw [State.asmRun, hstep, ih]

end

/-- Settles O54: a run leaves the CPU and the input queue. -/
theorem assemblerWritesNoCpuState : Obligations.AssemblerWritesNoCpuState := by
  intro s n
  have h : s.asmRun n = { s with
      mem := (s.asmRun n).mem, inq := (s.asmRun n).inq, asm := (s.asmRun n).asm } :=
    s.asmRun_sameCpu n
  rwa [s.asmRun_inq n] at h

/-- A step that sets `err` is a failing one: it names the line at the cursor and writes nothing
(R266). -/
theorem AsmState.StepTo.of_err {a b : AsmState} {addr : Nat} {ws : List Word} {e : AsmError}
    (hto : a.StepTo b addr ws) (herr : a.err = none) (hb : b.err = some e) :
    b = { a with err := some e } ∧ ws = [] ∧
      ∃ text, a.trimmed[a.cursor]? = some (e.line, text) := by
  have hnot : a.err ≠ some e := by simp [herr]
  cases hto with
  | stopped _ => exact absurd hb hnot
  | trimTo _ _ _ => exact absurd hb hnot
  | endTrim _ _ _ => exact absurd hb hnot
  | @scan _ _ p _ _ _ _ _ =>
    obtain ⟨_, hscan, _⟩ := a.scan_fields p
    exact absurd (hscan.symm.trans hb) hnot
  | endPass1 _ _ _ => exact absurd hb hnot
  | fail kind d hline =>
    obtain rfl := Option.some.inj hb
    exact ⟨rfl, rfl, _, hline⟩
  | emit _ _ _ _ _ => exact absurd hb hnot
  | endPass2 _ _ _ => exact absurd hb hnot

/-- Settles O55: the failing step among the cases of a step, and no step after it. -/
theorem failingAssemblyChangesOnlyErr : Obligations.FailingAssemblyChangesOnlyErr := by
  refine ⟨fun a b size m m' e herr hstep hb => ?_, fun s a n h herr =>
    State.asmRun_failed h herr n⟩
  obtain ⟨addr, ws, hto, hmem⟩ := a.step_stepTo size m
  rw [hstep] at hto hmem
  obtain ⟨hb', rfl, hline⟩ := hto.of_err herr hb
  exact ⟨hb', hmem, hline⟩

/-! ### The number of steps -/

/-- The steps that an assembler without an error has left: one per line of each phase to come and
one to end each phase, PASS1 and PASS2 over the lines that survive TRIM (R251, R269). -/
def AsmState.stepsLeft (a : AsmState) : Nat :=
  match a.phase with
  | .trim => (a.raw.length - a.cursor + 1) + 2 * ((keptLines a.raw).length + 1)
  | .pass1 => ((keptLines a.raw).length - a.cursor + 1) + ((keptLines a.raw).length + 1)
  | .pass2 => (keptLines a.raw).length - a.cursor + 1
  | .done => 0

theorem AsmState.stepsLeft_new (lines : List (List Char)) :
    (AsmState.new lines).stepsLeft = 2 * (keptLines lines).length + lines.length + 3 := by
  simp only [AsmState.stepsLeft, AsmState.new]
  omega

theorem AsmState.stepsLeft_eq_zero_iff {a : AsmState} : a.stepsLeft = 0 ↔ a.phase = .done := by
  cases h : a.phase <;> simp [AsmState.stepsLeft, h]

/-- After TRIM the trimmed lines are those that the step count speaks of (R252, R269). -/
theorem AsmState.Inv.trimmed_length {a : AsmState} (h : a.Inv) (hphase : a.phase ≠ .trim) :
    a.trimmed.length = (keptLines a.raw).length := by
  rw [h.source_of_ne_trim hphase, keptLines_eq_map, List.length_map]

section
variable {a b : AsmState}

theorem AsmState.StepTo.raw {addr : Nat} {ws : List Word} (hto : a.StepTo b addr ws) :
    b.raw = a.raw := by
  cases hto with
  | @scan _ _ p _ _ _ _ _ =>
    obtain ⟨_, _, hraw, _⟩ := a.scan_fields p
    exact hraw
  | _ => rfl

/-- Every step without an error is one of those left (R251, R269). -/
theorem AsmState.StepTo.stepsLeft {addr : Nat} {ws : List Word} (h : a.Inv)
    (hto : a.StepTo b addr ws) (herr : b.err = none) : b.stepsLeft = a.stepsLeft - 1 := by
  cases hto with
  | stopped hstop =>
    have hzero := AsmState.stepsLeft_eq_zero_iff.mpr (hstop.resolve_left (absurd herr))
    rw [hzero]
  | trimTo _ hphase hraw =>
    obtain ⟨hlt, _⟩ := List.getElem?_eq_some_iff.mp hraw
    simp only [AsmState.stepsLeft, AsmState.trimTo, hphase]
    omega
  | endTrim _ hphase hraw =>
    have hle := List.getElem?_eq_none_iff.mp hraw
    simp only [AsmState.stepsLeft, AsmState.enter, hphase]
    omega
  | @scan _ _ p _ hphase hline _ _ =>
    obtain ⟨hlt, _⟩ := List.getElem?_eq_some_iff.mp hline
    have hlength := h.trimmed_length (by simp [hphase])
    obtain ⟨hp, _, hraw, _, hcursor, _⟩ := a.scan_fields p
    simp only [AsmState.stepsLeft, hp, hraw, hcursor, hphase]
    omega
  | endPass1 _ hphase hend =>
    have hle := List.getElem?_eq_none_iff.mp hend
    have hlength := h.trimmed_length (by simp [hphase])
    simp only [AsmState.stepsLeft, AsmState.fixData, hphase]
    omega
  | fail _ _ _ => cases herr
  | emit _ _ _ hphase hline =>
    obtain ⟨hlt, _⟩ := List.getElem?_eq_some_iff.mp hline
    have hlength := h.trimmed_length (by simp [hphase])
    simp only [AsmState.stepsLeft, hphase]
    omega
  | endPass2 _ hphase hend =>
    obtain ⟨_, hinfo⟩ := h.cursor_pass2 hphase
    have hlength := h.trimmed_length (by simp [hphase])
    have hle : a.trimmed.length ≤ a.cursor := by
      simpa only [List.getElem?_eq_none_iff, hinfo, or_self] using hend
    simp only [AsmState.stepsLeft, AsmState.enter, hphase]
    omega

end

/-- A run that ends without an error has taken one of the steps left at each call, by induction on
the calls. -/
theorem State.asmRun_stepsLeft {s : State} {a b : AsmState} {n : Nat} (hinv : a.Inv)
    (ha : s.asm = some a) (hb : (s.asmRun n).asm = some b) (herr : b.err = none) :
    b.stepsLeft = a.stepsLeft - n := by
  induction n generalizing s a with
  | zero =>
    obtain rfl : a = b := Option.some.inj (ha.symm.trans hb)
    rfl
  | succ n ih =>
    obtain ⟨addr, ws, hto, _⟩ := a.step_stepTo s.memSize s.mem
    have hasm : s.asmStep.asm = some (a.step s.memSize s.mem).1 := by
      rw [State.asmStep_of_some ha]
    have hnone : (a.step s.memSize s.mem).1.err = none := by
      by_contra hfailed
      rw [State.asmRun, State.asmRun_failed hasm hfailed, hasm] at hb
      exact hfailed (Option.some.inj hb ▸ herr)
    rw [ih (hinv.stepTo hto) hasm hb, hto.stepsLeft hinv hnone]
    omega

/-- Settles O56: the steps left, which are none exactly in DONE. -/
theorem assemblerStepCount : Obligations.AssemblerStepCount := by
  intro s lines a ha herr
  have hinv := AsmState.inv_new lines
  constructor
  · rw [← AsmState.stepsLeft_eq_zero_iff,
      State.asmRun_stepsLeft hinv rfl ha herr, AsmState.stepsLeft_new, Nat.sub_self]
  · intro n b hn hb
    have hnone : b.err = none := by
      by_contra hfailed
      obtain ⟨k, hk⟩ := Nat.exists_eq_add_of_lt hn
      rw [hk, Nat.add_assoc, State.asmRun_add, State.asmRun_failed hb hfailed, hb] at ha
      exact hfailed (Option.some.inj ha ▸ herr)
    rw [Ne, ← AsmState.stepsLeft_eq_zero_iff, State.asmRun_stepsLeft hinv rfl hb hnone,
      AsmState.stepsLeft_new]
    omega

/-! ### Two machines -/

/-- From two machines with the same MEM_SIZE and the same assembler, runs go through the same
assemblers and write the same words, by induction on the calls (R268). -/
theorem State.asmRun_agree {s s' : State} (hsize : s.memSize = s'.memSize) (hasm : s.asm = s'.asm)
    (hwf : s.mem.wf = true) (hwf' : s'.mem.wf = true) (n : Nat) :
    (s.asmRun n).asm = (s'.asmRun n).asm ∧ ∀ x : Nat, s.mem.read x = s'.mem.read x →
      (s.asmRun n).mem.read x = (s'.asmRun n).mem.read x := by
  induction n generalizing s s' with
  | zero => exact ⟨hasm, fun _ hx => hx⟩
  | succ n ih =>
    cases ha : s.asm with
    | none =>
      have hstep : s.asmStep = s := by rw [State.asmStep, ha]
      have hstep' : s'.asmStep = s' := by rw [State.asmStep, ← hasm, ha]
      rw [State.asmRun, State.asmRun, hstep, hstep']
      exact ih hsize hasm hwf hwf'
    | some a =>
      obtain ⟨b, addr, ws, _, hstep⟩ := a.step_stepsBy s.memSize
      have hs : s.asmStep = { s with asm := some b, mem := s.mem.writeList addr ws } := by
        rw [State.asmStep_of_some ha, hstep]
      have hs' : s'.asmStep = { s' with asm := some b, mem := s'.mem.writeList addr ws } := by
        rw [State.asmStep_of_some (hasm.symm.trans ha), ← hsize, hstep]
      rw [State.asmRun, State.asmRun, hs, hs']
      obtain ⟨hasm', hread⟩ := ih
        (s := { s with asm := some b, mem := s.mem.writeList addr ws })
        (s' := { s' with asm := some b, mem := s'.mem.writeList addr ws }) hsize rfl
        (Memory.writeList_wf addr ws hwf) (Memory.writeList_wf addr ws hwf')
      refine ⟨hasm', fun x hx => hread x ?_⟩
      rw [Memory.read_writeList hwf, Memory.read_writeList hwf', hx]

/-- Settles O59: two machines that start to assemble the same source. -/
theorem assemblyDependsOnTheSourceAlone : Obligations.AssemblyDependsOnTheSourceAlone :=
  fun s s' lines n hsize hwf hwf' => State.asmRun_agree (s := s.newAssembler lines)
    (s' := s'.newAssembler lines) hsize rfl hwf hwf' n

end Sys2Proof.Machine
end

section
/-! What PASS2 writes for a line: the words of its instruction, which are the encoding, or its data
word (30_encoding.md R71, R72, 50_assembler.md R262, R263). -/

namespace Sys2Proof.Machine

/-! ### The words of a line -/

/-- A first word is the number of the opcode and the low byte (R71). -/
theorem firstWord_eq_ofNat (opcode low : Byte) :
    firstWord opcode low = BitVec.ofNat 16 (opcode.toNat * 256 + low.toNat) := by
  have hop := opcode.isLt
  have hlow := low.isLt
  apply BitVec.eq_of_toNat_eq
  rw [firstWord, BitVec.toNat_append, ← Nat.shiftLeft_add_eq_or_of_lt hlow, Nat.shiftLeft_eq,
    BitVec.toNat_ofNat, Nat.mod_eq_of_lt (by omega)]

/-- A short form is one word with the value in its low byte (R71, R262). -/
theorem lineWords_short (e : CatalogEntry) (value : Nat) :
    lineWords e InstrLength.short.words value =
      [BitVec.ofNat 16 (e.opcode.toNat * 256 + value)] := rfl

/-- A long form has the value in its second word (R72, R262). -/
theorem lineWords_long (e : CatalogEntry) (value : Nat) :
    lineWords e InstrLength.long.words value =
      [BitVec.ofNat 16 (e.opcode.toNat * 256), BitVec.ofNat 16 value] := rfl

/-- The words of an instruction line are the encoding of its instruction (R71, R72, R262). -/
theorem lineWords_eq_encode {i : Instr} (hwf : i.wf = true) :
    lineWords i.entry i.entry.length.words i.operand.toNat = encode i := by
  rw [Instr.wf] at hwf
  rw [encode]
  cases hlen : i.entry.length with
  | short =>
    rw [hlen] at hwf
    have hlow : (shortField i.operand).toNat = i.operand.toNat := by
      rw [shortField_toNat, Nat.mod_eq_of_lt (of_decide_eq_true hwf)]
    rw [lineWords_short, firstWord_eq_ofNat, hlow]
  | long =>
    have hfirst : firstWord i.entry.opcode 0#8 = BitVec.ofNat 16 (i.entry.opcode.toNat * 256) := by
      simpa using firstWord_eq_ofNat i.entry.opcode 0#8
    rw [lineWords_long, hfirst, BitVec.ofNat_toNat, BitVec.setWidth_eq]

/-! ### The operand of a line -/

/-- PASS2 reads the operand that PASS1 read (R262). -/
theorem operandOfText_of_parseLine {text : List Char} {label : Option (List Char)}
    {e : CatalogEntry} {o : LineOperand} (h : parseLine text = .ok (.instr label e o)) :
    operandOfText text = o := by
  rw [operandOfText, h]

section
variable {symbols : List (List Char × SymVal)} {e : CatalogEntry} {t : List Char} {value : Nat}

theorem resolveOperand_undefined {len : Nat} (h : ∀ r ∈ symbols, r.1 ≠ t) :
    resolveOperand symbols len (.symbol t) = .error (.undefinedLabel, t) := by
  rw [resolveOperand, symbolOf_eq_none_iff.mpr h]

section
variable (hunique : (symbols.map (fun r => r.1)).Nodup) (hmem : (t, SymVal.addr value) ∈ symbols)
include hunique hmem

/-- A symbol resolves to its address, if the form has room for it (R262). -/
theorem resolveOperand_symbol (hfits : e.length = .short → value ≤ 255) :
    resolveOperand symbols e.length.words (.symbol t) = .ok value := by
  rw [resolveOperand, symbolOf_eq_some_of_mem hunique hmem]
  refine if_neg fun ⟨hshort, hlarge⟩ => ?_
  cases hlen : e.length with
  | short => exact absurd (hfits hlen) (Nat.not_le.mpr hlarge)
  | long => rw [hlen] at hshort; exact absurd hshort (by decide)

/-- A short form has no room for an address above 255 (R262). -/
theorem resolveOperand_outOfRange (hshort : e.length = .short) (hlarge : 255 < value) :
    resolveOperand symbols e.length.words (.symbol t) = .error (.operandOutOfRange, t) := by
  rw [resolveOperand, symbolOf_eq_some_of_mem hunique hmem, hshort]
  exact if_pos ⟨rfl, hlarge⟩

end

end

/-! ### Writing the words of a line -/

/-- Words that fit are at the line's address after the step, and every other word is as before
(R54, R262). -/
theorem AsmState.emit_writes (a : AsmState) {size : Nat} {m : Memory} (hwf : m.wf = true) (n : Nat)
    {addr : Nat} {ws : List Word} (hfit : addr + ws.length - 1 < size) :
    ∃ m' : Memory, a.emit size m n addr ws = ({ a with cursor := a.cursor + 1 }, m') ∧
      ∀ b : Nat, m'.read b =
        if addr ≤ b ∧ b < addr + ws.length then ws.getD (b - addr) 0 else m.read b :=
  ⟨m.writeList addr ws, AsmState.emit_of_lt hfit, Memory.read_writeList hwf addr ws⟩

/-- Settles O60: the words of a line by the form's length, and the operand, the bounds check and the
write of one PASS2 step. -/
theorem assemblerEmitsTheEncoding : Obligations.AssemblerEmitsTheEncoding := by
  refine ⟨fun i => lineWords_eq_encode, fun a size m hphase herr hwf hunique => ?_⟩
  rw [AsmState.step_pass2 hphase herr]
  refine ⟨fun n addr text label e o hline hinfo hparse => ?instr,
    fun n addr text v hline hinfo => ?data, fun hend => AsmState.pass2Step_end (.inl hend)⟩
  case instr =>
    obtain rfl := operandOfText_of_parseLine hparse
    refine ⟨fun value ho ws hws => ?resolved, fun t ht hnone => ?undefined,
      fun t value ht hmem hshort hlarge => ?outOfRange⟩
    case resolved =>
      have hvalue : resolveOperand a.symbols e.length.words (operandOfText text) = .ok value := by
        obtain ⟨ho, rfl⟩ | ⟨w, ho, rfl⟩ | ⟨t, ho, hmem, hfits⟩ := ho
        · rw [ho, resolveOperand]
        · rw [ho, resolveOperand]
        · rw [ho, resolveOperand_symbol hunique hmem hfits]
      obtain rfl : ws = lineWords e e.length.words value := by
        cases hlen : e.length <;> rw [hlen] at hws <;> exact hws
      rw [AsmState.pass2Step_instr hline hinfo hvalue]
      exact ⟨fun hfit => a.emit_writes hwf n hfit, fun hover => AsmState.emit_of_le hover⟩
    case undefined =>
      exact AsmState.pass2Step_unresolved hline hinfo (ht ▸ resolveOperand_undefined hnone)
    case outOfRange =>
      exact AsmState.pass2Step_unresolved hline hinfo
        (ht ▸ resolveOperand_outOfRange hunique hmem hshort hlarge)
  case data =>
    rw [AsmState.pass2Step_data hline hinfo]
    refine ⟨fun hfit => ?_, fun hover => AsmState.emit_of_le hover⟩
    obtain ⟨m', hemit, hread⟩ := a.emit_writes hwf n (ws := [v]) hfit
    refine ⟨m', hemit, fun b => ?_⟩
    rw [hread b]
    by_cases hb : b = addr
    · rw [hb, if_pos rfl, if_pos ⟨le_refl _, by simp⟩, Nat.sub_self, List.getD_cons_zero]
    · rw [if_neg hb, if_neg fun ⟨hle, hlt⟩ => hb (le_antisymm (Nat.le_of_lt_succ hlt) hle)]

end Sys2Proof.Machine
end

section
/-! The errors that the CPU raises: the calls of the spec's `step()` that raise one, and what such a
call leaves of the machine (60_exceptions.md R300 to R303). -/

namespace Sys2Proof.Machine

/-! ### The conditions of the two errors -/

/-- The next `step()` raises this error: at the lookup of an opcode with no entry (R300), or at a
memory access with MAR outside memory (R301). `State.Raises.rtnStep` and `State.rtnStep_errMove` tie
it to the call. -/
inductive State.Raises (s : State) : CpuError → Prop
  | lookup (hphase : s.phase = .decode) (hk : s.k = 0)
      (hnone : lookupEntry (opcodeField s.cir) = none) :
      s.Raises (.unknownOpcode (opcodeField s.cir) s.cir)
  | access (hmem : s.accessesMemory) (hmar : s.memSize ≤ s.mar.toNat) :
      s.Raises (.addressOutOfBounds s.mar)

/-- Between the two states ERR stands, or an error is raised whose condition the first one meets. -/
def State.errMove (s t : State) : Prop := t.err = s.err ∨ ∃ e, s.Raises e ∧ t = s.raise e

section
variable {s t : State} {e : CpuError}

/-- From a state with no error, a move to one with an error raises that error. -/
theorem State.errMove.raises (h : s.errMove t) (hs : s.err = none) (ht : t.err = some e) :
    s.Raises e ∧ t = s.raise e := by
  rcases h with h | ⟨e', he', rfl⟩
  · rw [h, hs] at ht; cases ht
  · obtain rfl := Option.some.inj ht; exact ⟨he', rfl⟩

/-! ### The calls that raise -/

/-- The lookup of an opcode with no entry raises UnknownOpcode (R106, R300). -/
theorem State.lookupStep_of_none (h : lookupEntry (opcodeField s.cir) = none) :
    s.lookupStep = s.raise (.unknownOpcode (opcodeField s.cir) s.cir) := by
  rw [State.lookupStep, h]

/-- A memory step of EXECUTE with MAR outside memory raises (R301). -/
theorem RtnStep.run_of_le {r : RtnStep} (hr : r = .memRead ∨ r = .memWrite)
    (h : s.memSize ≤ s.mar.toNat) : r.run s = .raises (.addressOutOfBounds s.mar) := by
  rcases hr with rfl | rfl
  · exact State.readMar_of_le h
  · exact State.writeMar_of_le h

/-- In EXECUTE a call runs the step that the sequence has at k (R108). -/
theorem State.rtnStep_execute_at (hphase : s.phase = .execute) {e : CatalogEntry}
    (hinst : s.inst = some e) {r : RtnStep} (hr : e.rtn[s.k]? = some r) :
    s.rtnStep = .next (s.executeStep e r (s.k + 1 == e.rtn.length)) := by
  simp [State.rtnStep, State.executeAt, hphase, hinst, hr]

/-- A completed step of EXECUTE leaves the sequence if it is the last one, else it goes on (R108). -/
theorem State.executeStep_of_done {e : CatalogEntry} {r : RtnStep} (h : r.run s = .done t)
    (last : Bool) :
    s.executeStep e r last = if last then t.leaveExecute e else t.nextStep := by
  rw [State.executeStep, h]

/-- A state that meets the condition of an error raises it. -/
theorem State.Raises.rtnStep (h : s.Raises e) : s.rtnStep = .next (s.raise e) := by
  cases h with
  | lookup hphase hk hnone =>
    rw [State.rtnStep_decode_zero hphase hk, State.lookupStep_of_none hnone]
  | access hmem hmar =>
    rcases hmem with ⟨hphase, hk⟩ | ⟨hphase, hk⟩ | ⟨hphase, e, r, hinst, hr, haccess⟩
    · rw [State.rtnStep_fetch_one hphase hk, State.readThen_of_le hmar]
    · rw [State.rtnStep_decode_two hphase hk, State.readThen_of_le hmar]
    · rw [State.rtnStep_execute_at hphase hinst hr, State.executeStep,
        RtnStep.run_of_le haccess hmar]

/-! ### No other call raises -/

/-- The read of FETCH and of DECODE raises only outside memory. -/
theorem State.readThen_errMove (h : s.accessesMemory) (k : Nat) : s.errMove (s.readThen k) := by
  rcases Nat.lt_or_ge s.mar.toNat s.memSize with hmar | hmar
  · rw [State.readThen_of_lt hmar]; exact .inl rfl
  · rw [State.readThen_of_le hmar]; exact .inr ⟨_, .access h hmar, rfl⟩

/-- The lookup raises only for an opcode with no entry. -/
theorem State.lookupStep_errMove (hphase : s.phase = .decode) (hk : s.k = 0) :
    s.errMove s.lookupStep := by
  cases he : lookupEntry (opcodeField s.cir) with
  | none => rw [State.lookupStep_of_none he]; exact .inr ⟨_, .lookup hphase hk he, rfl⟩
  | some e =>
    cases hlen : e.length with
    | short => rw [State.lookupStep_short he hlen]; exact .inl rfl
    | long => rw [State.lookupStep_long he hlen]; exact .inl rfl

/-- A step of EXECUTE raises only as a memory step outside memory (R301). -/
theorem State.executeStep_errMove (hphase : s.phase = .execute) {e : CatalogEntry}
    (hinst : s.inst = some e) {r : RtnStep} (hr : e.rtn[s.k]? = some r) (last : Bool) :
    s.errMove (s.executeStep e r last) := by
  cases hrun : r.run s with
  | done u =>
    obtain ⟨_, _, _, _, _, herr, _⟩ := RtnStep.run_keeps hrun
    rw [State.executeStep_of_done hrun]
    cases last <;> exact .inl herr
  | blocked => rw [State.executeStep, hrun]; exact .inl rfl
  | raises x =>
    rw [State.executeStep, hrun]
    obtain ⟨haccess, hmar, rfl⟩ := RtnStep.run_raises hrun
    have hmar : s.memSize ≤ s.mar.toNat := not_lt.mp (of_decide_eq_false hmar)
    exact .inr ⟨_, .access (.inr (.inr ⟨hphase, e, r, hinst, hr, haccess⟩)) hmar, rfl⟩

theorem State.fetchStep_errMove (hphase : s.phase = .fetch) (h : s.fetchStep = .next t) :
    s.errMove t := by
  unfold State.fetchStep at h
  split at h
  · obtain rfl := Host.Outcome.next.inj h; exact .inl rfl
  · next hk =>
    obtain rfl := Host.Outcome.next.inj h
    exact State.readThen_errMove (.inl ⟨hphase, hk⟩) 2
  · obtain rfl := Host.Outcome.next.inj h; exact .inl rfl
  · obtain rfl := Host.Outcome.next.inj h; exact .inl rfl
  · cases h

theorem State.decodeStep_errMove (hphase : s.phase = .decode) (h : s.decodeStep = .next t) :
    s.errMove t := by
  unfold State.decodeStep at h
  split at h
  · next hk => obtain rfl := Host.Outcome.next.inj h; exact State.lookupStep_errMove hphase hk
  · obtain rfl := Host.Outcome.next.inj h; exact .inl rfl
  · next hk =>
    obtain rfl := Host.Outcome.next.inj h
    exact State.readThen_errMove (.inr (.inl ⟨hphase, hk⟩)) 3
  · obtain rfl := Host.Outcome.next.inj h; exact .inl rfl
  · obtain rfl := Host.Outcome.next.inj h; exact .inl rfl
  · cases h

theorem State.executeAt_errMove (hphase : s.phase = .execute) (h : s.executeAt = .next t) :
    s.errMove t := by
  unfold State.executeAt at h
  split at h
  · cases h
  · next e hinst =>
    split at h
    · cases h
    · next r hr =>
      obtain rfl := Host.Outcome.next.inj h
      exact State.executeStep_errMove hphase hinst hr _

/-- Every call of the spec's `step()` leaves ERR, or raises an error whose condition the state meets
(R300 to R303). -/
theorem State.rtnStep_errMove (h : s.rtnStep = .next t) : s.errMove t := by
  unfold State.rtnStep at h
  split at h
  · obtain rfl := Host.Outcome.next.inj h; exact .inl rfl
  · next hphase => exact State.fetchStep_errMove hphase h
  · next hphase => exact State.decodeStep_errMove hphase h
  · next hphase => exact State.executeAt_errMove hphase h

end

/-! ### The instructions that access memory -/

/-- The rows with a memory step are those of R301, by a check of the 56 rows of R75. -/
theorem catalog_memory_steps : ∀ e ∈ catalog,
    (.memRead ∈ e.rtn ∨ .memWrite ∈ e.rtn) ↔
      (e.mnemonic ∈ [Mnemonic.ldd, .ldi, .ldx, .sto, .cmi] ∨
        (e.mode = .direct ∧ e.mnemonic ∈ [Mnemonic.add, .sub, .and, .or, .xor, .cmp])) := by decide

/-! ### The obligations -/

/-- Settles O6: of the two conditions only the lookup's records UnknownOpcode. -/
theorem unknownOpcodeIsRaisedByTheLookupAlone :
    Obligations.UnknownOpcodeIsRaisedByTheLookupAlone := by
  refine ⟨fun s hphase hk hnone => (State.Raises.lookup hphase hk hnone).rtnStep,
    fun s t op w hstep hs ht => ?_⟩
  obtain ⟨hraises, _⟩ := (State.rtnStep_errMove hstep).raises hs ht
  cases hraises with
  | lookup hphase hk hnone => exact ⟨hphase, hk, hnone, rfl, rfl⟩

/-- Settles O7: of the two conditions only the access's records AddressOutOfBounds, and no 16-bit
MAR is outside a memory of 65536 words. -/
theorem addressOutOfBoundsIsRaisedByMemoryStepsAlone :
    Obligations.AddressOutOfBoundsIsRaisedByMemoryStepsAlone := by
  refine ⟨fun s hmem hmar => (State.Raises.access hmem hmar).rtnStep,
    fun s t a hstep hs ht => ?_, fun i => catalog_memory_steps _ i.entry_mem_catalog⟩
  obtain ⟨hraises, _⟩ := (State.rtnStep_errMove hstep).raises hs ht
  cases hraises with
  | access hmem hmar =>
    have hlt : s.mar.toNat < 65536 := s.mar.isLt
    exact ⟨hmem, hmar, rfl, by omega⟩

/-- Settles O8: a call that puts an error into ERR is a raise. -/
theorem raisingStepChangesOnlyErrAndPhase : Obligations.RaisingStepChangesOnlyErrAndPhase := by
  intro s t e hstep hs ht
  obtain ⟨_, rfl⟩ := (State.rtnStep_errMove hstep).raises hs ht
  rfl

end Sys2Proof.Machine
end

section
/-! The address of the faulting instruction: where FETCH, DECODE or EXECUTE stops from an instruction
boundary, and what PC and MAR are there (60_exceptions.md R304). -/

namespace Sys2Proof.Machine

/-! ### Errors of FETCH and DECODE -/

/-- At DECODE step 2 of a long form: the address of the operand word is in PC and MAR. -/
def State.operandAwaited (s : State) (e : CatalogEntry) : State :=
  { s.fetchDone with inst := some e, mar := s.pc + 1, k := 2 }

section
variable {s : State}

/-- A run through FETCH and DECODE that an error ends is the model's step (log 1, R303). -/
theorem State.RunIn.step_eq_raise {u : State} {m : Nat} (hs : s.inFront)
    (h : State.RunIn State.inFront s m u) (hu : u.inFront) {x : CpuError} (hraises : u.Raises x)
    (hm : m + 1 ≤ frontSteps) : Machine.step s = .next (u.raise x) :=
  State.RunIn.step_eq_halt hs (h.trans (.step hu hraises.rtnStep (.refl _))) hm rfl

theorem State.inFront_of_atBoundary (hb : s.atBoundary = true) : s.inFront :=
  .inl (of_decide_eq_true hb).1

/-- The calls up to the start of DECODE, from a boundary with PC inside memory. -/
theorem State.fetchDone_run (hb : s.atBoundary = true) (hpc : s.inBounds s.pc = true) :
    State.RunIn State.inFront s 4 s.fetchDone :=
  .step (State.inFront_of_atBoundary hb) (State.rtnStep_boundary hb)
    ((State.fetch_run hb hpc).mono fun _ => State.midFront.inFront)

/-- With PC outside memory the fetch raises (R103, R301). -/
theorem State.step_fetch_raises (hb : s.atBoundary = true) (hpc : s.inBounds s.pc = false) :
    step s = .next (s.fetchStarted.raise (.addressOutOfBounds s.pc)) := by
  have hs := State.inFront_of_atBoundary hb
  have hphase : s.fetchStarted.phase = .fetch := (of_decide_eq_true hb).1
  have hmar : s.memSize ≤ s.pc.toNat := not_lt.mp (of_decide_eq_false hpc)
  have hraises : s.fetchStarted.Raises (.addressOutOfBounds s.pc) :=
    .access (.inl ⟨hphase, rfl⟩) hmar
  exact State.RunIn.step_eq_raise hs (.step hs (State.rtnStep_boundary hb) (.refl _)) (.inl hphase)
    hraises (by decide)

/-- With an opcode that has no entry the lookup raises (R106, R300). -/
theorem State.step_lookup_raises (hb : s.atBoundary = true) (hpc : s.inBounds s.pc = true)
    (hnone : lookupEntry (opcodeField (s.word s.pc)) = none) :
    step s = .next (s.fetchDone.raise
      (.unknownOpcode (opcodeField (s.word s.pc)) (s.word s.pc))) :=
  State.RunIn.step_eq_raise (State.inFront_of_atBoundary hb) (State.fetchDone_run hb hpc) (.inr rfl)
    (.lookup rfl rfl hnone) (by decide)

/-- With a long form's operand word outside memory DECODE raises (R107, R301). -/
theorem State.step_operand_raises (hb : s.atBoundary = true) (hpc : s.inBounds s.pc = true)
    {e : CatalogEntry} (he : lookupEntry (opcodeField (s.word s.pc)) = some e)
    (hlong : e.length = .long) (hpc' : s.inBounds (s.pc + 1) = false) :
    step s = .next ((s.operandAwaited e).raise (.addressOutOfBounds (s.pc + 1))) := by
  have hlookup : lookupEntry (opcodeField s.fetchDone.cir) = some e := he
  have hfound : s.fetchDone.rtnStep = .next { s.fetchDone with inst := some e, k := 1 } := by
    rw [State.rtnStep_decode_zero rfl rfl, State.lookupStep_long hlookup hlong]
  have hrun : State.RunIn State.inFront s 6 (s.operandAwaited e) :=
    (State.fetchDone_run hb hpc).trans <| .step (.inr rfl) hfound <|
      .step (.inr rfl) (State.rtnStep_decode_one rfl rfl) <| .refl _
  have hmar : s.memSize ≤ (s.pc + 1).toNat := not_lt.mp (of_decide_eq_false hpc')
  exact State.RunIn.step_eq_raise (State.inFront_of_atBoundary hb) hrun (.inr rfl)
    (.access (.inr (.inl ⟨rfl, rfl⟩)) hmar) (by decide)

/-! ### Where the model's step goes from a boundary -/

/-- A first word with an entry, and the operand word of a long form, decode to an instruction of
that entry (R76). -/
theorem State.decode_fetchWords {e : CatalogEntry}
    (he : lookupEntry (opcodeField (s.word s.pc)) = some e) :
    ∃ i rest, decode s.fetchWords = .ok (i, rest) ∧ i.entry = e := by
  obtain ⟨f, hf, rfl⟩ := Option.map_eq_some_iff.mp he
  cases hlen : (formEntry f).length with
  | short => exact ⟨_, _, decode_short hf hlen, (lookupForm_apply hf _).1⟩
  | long => exact ⟨_, _, decode_long hf hlen, (lookupForm_apply hf _).1⟩

/-- From a boundary the fetch raises, the lookup raises, the read of the operand word raises, or the
instruction at PC is executed (R102 to R108). -/
theorem State.step_boundary_cases (hb : s.atBoundary = true) :
    step s = .next (s.fetchStarted.raise (.addressOutOfBounds s.pc)) ∨
    step s = .next (s.fetchDone.raise
      (.unknownOpcode (opcodeField (s.word s.pc)) (s.word s.pc))) ∨
    (∃ e, step s = .next ((s.operandAwaited e).raise (.addressOutOfBounds (s.pc + 1)))) ∨
    ∃ i, step s = .next ((s.fetched i.entry.length).execute i) := by
  cases hpc : s.inBounds s.pc with
  | false => exact .inl (State.step_fetch_raises hb hpc)
  | true =>
    cases he : lookupEntry (opcodeField (s.word s.pc)) with
    | none => exact .inr (.inl (State.step_lookup_raises hb hpc he))
    | some e =>
      obtain ⟨i, rest, hd, rfl⟩ := State.decode_fetchWords he
      have hexec := fun hin => (stepRunsTheDecodedInstruction s i rest hb hd hin).trans
        (exec_eq_execute _ _)
      cases hlen : i.entry.length with
      | short => exact .inr (.inr (.inr ⟨i, hexec (by rw [hlen]; exact hpc)⟩))
      | long =>
        cases hpc' : s.inBounds (s.pc + 1) with
        | false => exact .inr (.inr (.inl ⟨_, State.step_operand_raises hb hpc he hlen hpc'⟩))
        | true =>
          have hin : s.fetchInBounds .long = true := Bool.and_eq_true_iff.mpr ⟨hpc, hpc'⟩
          exact .inr (.inr (.inr ⟨i, hexec (by rw [hlen]; exact hin)⟩))

end

/-! ### Errors of EXECUTE -/

/-- A sequence leaves ERR, or one of its memory steps raises AddressOutOfBounds (R301). -/
theorem State.runSteps_err (s : State) (e : CatalogEntry) (rs : List RtnStep) :
    (s.runSteps e rs).err = s.err ∨
      (.memRead ∈ rs ∨ .memWrite ∈ rs) ∧
        ∃ a, (s.runSteps e rs).err = some (.addressOutOfBounds a) := by
  induction rs generalizing s with
  | nil => exact .inl rfl
  | cons r rs ih =>
    cases hr : r.run s with
    | done t =>
      obtain ⟨_, _, _, _, _, herr, _⟩ := RtnStep.run_keeps hr
      rw [State.runSteps_done hr]
      split
      · exact .inl herr
      · rcases ih t.nextStep with h | ⟨hmem, h⟩
        · exact .inl (h.trans herr)
        · exact .inr ⟨hmem.imp (List.mem_cons_of_mem _) (List.mem_cons_of_mem _), h⟩
    | blocked => rw [State.runSteps_blocked hr]; exact .inl rfl
    | raises x =>
      obtain ⟨hmem, _, rfl⟩ := RtnStep.run_raises hr
      rw [State.runSteps_raises hr]
      refine .inr ⟨?_, _, rfl⟩
      rcases hmem with rfl | rfl
      · exact .inl List.mem_cons_self
      · exact .inr List.mem_cons_self

/-- No instruction both accesses memory and jumps, by a check of the 56 rows of R75. -/
theorem catalog_memory_not_pc : ∀ e ∈ catalog,
    (.memRead ∈ e.rtn ∨ .memWrite ∈ e.rtn) → .pc ∉ e.written := by decide

/-- An instruction that raises an error leaves PC as FETCH and DECODE left it (R304). -/
theorem State.execute_pc_of_err {s : State} {i : Instr} (hs : s.err = none)
    (h : (s.execute i).err ≠ none) : (s.execute i).pc = s.pc := by
  rcases (s.latch i).runSteps_err i.entry i.entry.rtn with herr | ⟨hmem, _⟩
  · exact absurd (herr.trans hs) h
  · exact (s.execute_frame i).pc (catalog_memory_not_pc _ i.entry_mem_catalog hmem)

/-- No instruction raises UnknownOpcode in EXECUTE (R300). -/
theorem State.execute_err_ne_unknownOpcode {s : State} {i : Instr} (hs : s.err = none) (op : Byte)
    (w : Word) : (s.execute i).err ≠ some (.unknownOpcode op w) := by
  intro h
  rcases (s.latch i).runSteps_err i.entry i.entry.rtn with herr | ⟨_, a, herr⟩
  · have hnone : (s.execute i).err = none := herr.trans hs
    rw [hnone] at h; cases h
  · have hsome : (s.execute i).err = some (.addressOutOfBounds a) := herr
    rw [hsome] at h; cases h

theorem State.fetched_err (s : State) (l : InstrLength) : (s.fetched l).err = s.err := by
  cases l <;> rfl

/-- FETCH and DECODE count PC past the words of the instruction (R104, R107). -/
theorem State.fetched_pc (s : State) (l : InstrLength) :
    (s.fetched l).pc = s.pc + BitVec.ofNat 16 l.words := by
  cases l <;> rfl

/-! ### The obligation -/

/-- Settles O9: the state in which FETCH, the lookup or the read of the operand word raises, and
EXECUTE, which leaves PC where it raises. -/
theorem faultingAddressIsRecoverable : Obligations.FaultingAddressIsRecoverable := by
  intro s t hb hs hstep ht
  refine ⟨fun hpc => ?fetch, fun op w hop => ?unknown, fun e hpc he hlong hpc' => ?operand,
    fun i rest hd hin => ?execute⟩
  case fetch =>
    obtain rfl := Host.Outcome.next.inj ((State.step_fetch_raises hb hpc).symm.trans hstep)
    exact ⟨rfl, rfl⟩
  case unknown =>
    rcases State.step_boundary_cases hb with h | h | ⟨e, h⟩ | ⟨i, h⟩ <;>
      obtain rfl := Host.Outcome.next.inj (h.symm.trans hstep)
    · cases hop
    · exact BitVec.add_sub_cancel s.pc 1
    · cases hop
    · exact absurd hop
        (State.execute_err_ne_unknownOpcode ((s.fetched_err _).trans hs) op w)
  case operand =>
    have h := State.step_operand_raises hb hpc he hlong hpc'
    obtain rfl := Host.Outcome.next.inj (h.symm.trans hstep)
    exact ⟨BitVec.add_sub_cancel s.pc 1, rfl⟩
  case execute =>
    have h := stepRunsTheDecodedInstruction s i rest hb hd hin
    obtain rfl := execute_of_exec (h.symm.trans hstep)
    refine ⟨i.entry, State.execute_inst _ i, rfl, ?_⟩
    rw [State.execute_pc_of_err ((s.fetched_err _).trans hs) ht, s.fetched_pc,
      BitVec.add_sub_cancel]

end Sys2Proof.Machine
end

section
/-! The host's actions: loads, pushes to a blocked IN, and what every action keeps (60_exceptions.md
R310, R311, 70_reset_and_hazards.md R331 to R334). -/

namespace Sys2Proof.Machine

/-! ### Memory inside MEM_SIZE -/

/-- Words written below MEM_SIZE leave every listed address below it. -/
theorem Memory.within_writeList {n a : Nat} {m : Memory} {ws : List Word}
    (hm : m.within n = true) (h : a + ws.length ≤ n) : (m.writeList a ws).within n = true := by
  induction ws generalizing m a with
  | nil => exact hm
  | cons w ws ih =>
    rw [List.length_cons] at h
    exact ih (Memory.within_write hm (by omega)) (by omega)

section
variable {a : AsmState} {size : Nat} {m : Memory}

/-- An emission checks its last address before it writes (R262). -/
theorem AsmState.emit_within (hm : m.within size = true) (n addr : Nat) (ws : List Word) :
    (a.emit size m n addr ws).2.within size = true := by
  rcases a.emit_cases size m n addr ws with ⟨_, h⟩ | ⟨hfit, h⟩ <;> rw [h]
  · exact hm
  · cases ws with
    | nil => exact hm
    | cons w ws =>
      rw [List.length_cons] at hfit
      exact Memory.within_writeList hm (by rw [List.length_cons]; omega)

/-- Of the assembler's passes only PASS2 writes memory, by emissions (R262, R264). -/
theorem AsmState.pass2Step_within (hm : m.within size = true) :
    (a.pass2Step size m).2.within size = true := by
  unfold AsmState.pass2Step
  split
  · split
    · exact hm
    · exact AsmState.emit_within hm _ _ _
  · exact AsmState.emit_within hm _ _ _
  · exact hm

theorem AsmState.step_within (hm : m.within size = true) :
    (a.step size m).2.within size = true := by
  unfold AsmState.step
  split
  · exact hm
  · split
    · exact hm
    · exact hm
    · exact AsmState.pass2Step_within hm
    · exact hm

theorem AsmState.step_wf (hm : m.wf = true) : (a.step size m).2.wf = true := by
  obtain ⟨addr, ws, _, hmem⟩ := a.step_stepTo size m
  rw [hmem]
  exact Memory.writeList_wf addr ws hm

end

/-! ### The invariant -/

section
variable {s : State}

/-- The invariant of the machine says nothing of the queues and the assembler, and of memory only
that it is canonical and inside MEM_SIZE. -/
theorem State.Inv.of_sameCpu {t : State} (h : s.Inv) (hcpu : s.SameCpu t) (hwf : t.mem.wf = true)
    (hwithin : t.mem.within s.memSize = true) : t.Inv := by
  unfold State.SameCpu at hcpu
  rw [hcpu]
  exact ⟨h.sizePos, h.sizeMax, hwf, hwithin, h.flagReserved, h.instKnown, h.control, h.errHalts⟩

/-- A step of the assembler keeps the invariant, whatever the assembler's state (R264). -/
theorem State.Inv.asmStep (h : s.Inv) : s.asmStep.Inv := by
  cases hasm : s.asm with
  | none => rw [State.asmStep, hasm]; exact h
  | some a =>
    have hcpu := s.asmStep_sameCpu
    rw [State.asmStep_of_some hasm] at hcpu ⊢
    exact h.of_sameCpu hcpu (AsmState.step_wf h.memWf) (AsmState.step_within h.memWithin)

/-- A fitting load keeps the invariant: its words are below MEM_SIZE, and the CPU is as at creation
but for PC (R331). -/
theorem State.Inv.loaded (h : s.Inv) {words : List Word} {start : Word}
    (hfit : start.toNat + words.length ≤ s.memSize) : (s.loaded words start).Inv :=
  have hnew := State.create_inv h.sizePos h.sizeMax
  ⟨h.sizePos, h.sizeMax, Memory.writeList_wf start.toNat words h.memWf,
    Memory.within_writeList h.memWithin hfit, hnew.flagReserved, hnew.instKnown, hnew.control,
    hnew.errHalts⟩

/-- A load keeps the invariant, refused or not (R331, R332). -/
theorem State.Inv.act_load (h : s.Inv) (words : List Word) (start : Word) :
    ∃ t, s.act (.load words (some start)) = .next t ∧ t.Inv := by
  rcases s.load_cases words start with ⟨hfit, _, hact⟩ | ⟨_, _, hact⟩
  · exact ⟨_, hact, h.loaded hfit⟩
  · exact ⟨_, hact, h⟩

end

/-! ### Blocked at IN -/

section
variable {s : State}

/-- The call that finds the machine blocked at IN changes nothing (R230). -/
theorem State.blockedAtIn.rtnStep (h : s.blockedAtIn) : s.rtnStep = .next s := by
  obtain ⟨hphase, hinq, e, hinst, hr⟩ := h
  rw [State.rtnStep_execute_at hphase hinst hr, State.executeStep, RtnStep.run,
    State.popInput_of_nil hinq]

/-- No number of calls leaves a blocked IN. -/
theorem State.blockedAtIn.rtnRun (h : s.blockedAtIn) (n : Nat) : s.rtnRun n = .next s := by
  induction n with
  | zero => rfl
  | succ n ih => rw [State.rtnRun_succ h.rtnStep, ih]

/-- Nor does the model's step, which resumes the sequence at the IN (log 1). -/
theorem State.blockedAtIn.step (h : s.blockedAtIn) : Machine.step s = .next s := by
  obtain ⟨hphase, hinq, e, hinst, hr⟩ := h
  obtain ⟨hk, hpop⟩ := List.getElem?_eq_some_iff.mp hr
  have hblocked : RtnStep.run .inPop s = .blocked := State.popInput_of_nil hinq
  have hresume : s.resume = .next (s.runSteps e (e.rtn.drop s.k)) := by
    simp [State.resume, hinst, hk]
  rw [step_execute hphase, hresume, List.drop_eq_getElem_cons hk, hpop,
    State.runSteps_blocked hblocked]

/-- After a push the next call takes the value, and the queue is empty again (R230, R311). -/
theorem State.blockedAtIn.rtnStep_pushInput (h : s.blockedAtIn) (v : Int) :
    ∃ t, (s.pushInput v).rtnStep = .next t ∧ t.acc = wrap16 v ∧ t.inq = [] := by
  obtain ⟨hphase, hinq, e, hinst, hr⟩ := h
  have hpushed : (s.pushInput v).inq = [v] := by rw [State.pushInput_inq, hinq]; rfl
  refine ⟨_, State.rtnStep_execute_at (s := s.pushInput v) hphase hinst hr, ?_⟩
  rw [State.executeStep_of_done (r := .inPop) (State.popInput_of_cons hpushed)]
  split <;> exact ⟨rfl, rfl⟩

end

/-! ### The obligations -/

/-- Settles O14, by the host's actions: all but the spec's `step()` and a load leave the CPU. -/
theorem hostActionsKeepTheInvariant : Obligations.HostActionsKeepTheInvariant := by
  intro s a h
  cases a with
  | cpuStep => exact h.rtnStep
  | load words start =>
    cases start with
    | none => exact h.act_load words Config.startAddress
    | some start => exact h.act_load words start
  | newAssembler lines => exact ⟨_, rfl, h.of_sameCpu rfl h.memWf h.memWithin⟩
  | asmStep => exact ⟨_, rfl, h.asmStep⟩
  | pushInput v => exact ⟨_, rfl, h.of_sameCpu rfl h.memWf h.memWithin⟩

/-- Settles O53: neither step leaves the blocked state, and a push unblocks the call. -/
theorem blockedInWaitsForAPush : Obligations.BlockedInWaitsForAPush :=
  fun _ h => ⟨h.rtnRun, h.step, h.rtnStep_pushInput⟩

/-- Settles O20: the loaded state, and the reads after the words are written. -/
theorem loadStartsAFreshRun : Obligations.LoadStartsAFreshRun := by
  refine ⟨fun s ws start hwf hfit => ?_, fun s ws => s.act_load_default ws⟩
  rcases s.load_cases ws start with ⟨_, hload, hact⟩ | ⟨hover, _, _⟩
  · exact ⟨s.loaded ws start, hload, hact, rfl, Memory.read_writeList hwf start.toNat ws⟩
  · omega

/-- Settles O21: the address reported is the greater of the start and MEM_SIZE, and the words reach
beyond both. -/
theorem loadPastTheEndIsRefused : Obligations.LoadPastTheEndIsRefused := by
  intro s w ws start hover
  rcases s.load_cases (w :: ws) start with ⟨hfit, _, _⟩ | ⟨_, hload, hact⟩
  · omega
  · have hpos : 0 < (w :: ws).length := Nat.succ_pos _
    exact ⟨hact, _, hload, by omega, by omega, by omega, by omega⟩

end Sys2Proof.Machine
end
